-- ==== Sys2Proof/Word.lean ====
section
/-! DEFINITION. The block's data types: a byte (R5), the 16-bit checksum and CRC values (R100, R110), and the 32-bit
word of the host bus (R3, R42). -/

namespace Sys2Proof

/-- One byte of a buffer or of a frame (R5). -/
abbrev Byte := BitVec 8

/-- A 16-bit value: a checksum, an FCS, a port, an etherType (R4). -/
abbrev Half := BitVec 16

/-- A word of the host data bus and of the register window (R3, R42). -/
abbrev Word := BitVec 32

end Sys2Proof
end

