-- ==== Sys2Proof/Config.lean ====
section
/-! DEFINITION. What the spec leaves to an implementation: the open parameters of R3, and the free values that stand
for every value the spec calls unspecified (R181, R192). -/

namespace Sys2Proof

/-- The open parameters of R3. LATENCY is not here: it is the schedule (`Machine.State.script`, log 4). -/
structure Params where
  /-- IMEM_BYTES, the size in bytes of the input buffer. -/
  imemBytes : Nat
  /-- OMEM_BYTES, the size in bytes of the output buffer. -/
  omemBytes : Nat
deriving DecidableEq, Repr

/-- The sizes R3 suggests. DESIGN CHOICE (log 1), unsafe: only `Machine.State.reset` uses them. -/
def Params.suggested : Params where
  imemBytes := 4096
  omemBytes := 4096

/-- The two byte buffers of R31. -/
inductive Buffer where
  | imem
  | omem
deriving DecidableEq, Repr

/-- MTU_RESET, the reset value of register MTU, decided by R3. -/
def Config.mtuReset : Half := 0x05DC#16

/-- FREE VALUE (log 2), safe: what the byte at `offset` of a buffer holds when nothing has written it since reset
number `epoch` (R181). It may differ from byte to byte and from reset to reset. -/
opaque Config.unwrittenByte (epoch : Nat) (buffer : Buffer) (offset : Nat) : Byte

/-- FREE VALUE (log 3), safe: the 32 bits that hazard read number `draw` returns (R192). -/
opaque Config.hazardRead (draw : Nat) : Word

end Sys2Proof
end

