-- ==== Sys2Proof/Syntax.lean ====
section
/-! DEFINITION. The commands of spec/opcode_table.json, one constructor per row (R70). A command word carries no
operand: every operand is in a register or in IMEM. The ILLEGAL words of R71 are no row of the table; they are
`Machine.Opcode.illegal` (Machine/State.lean). -/

namespace Sys2Proof

/-- The four commands of the block (R70). -/
inductive Instr where
  /-- CKSUM (R101): Internet checksum of region A into RESULT. -/
  | cksum
  /-- CRC16 (R111): CRC-16 of region A into RESULT. -/
  | crc16
  /-- ENCODE (R120): header bank, region A and region B into a frame in OMEM. -/
  | encode
  /-- DECODE (R140): the frame in region A into the header bank and the result registers. -/
  | decode
deriving DecidableEq, Repr

end Sys2Proof
end

