-- ==== Sys2Proof/WellFormed.lean ====
section
/-! DEFINITION. The checks on what the outside supplies: a command word (R70, R71) and the open parameters (R3). A
command has no operand field (R70), so a term of `Instr` has nothing left to check. -/

namespace Sys2Proof

/-- Every command is well formed: the format CMD32 has no immediate and no register field (R70). -/
def Instr.wf : Instr → Bool
  | .cksum => true
  | .crc16 => true
  | .encode => true
  | .decode => true

/-- A command word is legal when bits [31:4] are zero and OP is 1 to 4 (R70, R71). -/
def commandWordLegal (w : Word) : Bool :=
  w.extractLsb' 4 28 == 0#28 && (1#4 ≤ w.extractLsb' 0 4 && w.extractLsb' 0 4 ≤ 4#4)

/-- R3's bounds on the buffer sizes. -/
def Params.wf (p : Params) : Bool :=
  64 ≤ p.imemBytes && p.imemBytes ≤ 65536 && (64 ≤ p.omemBytes && p.omemBytes ≤ 65536)

end Sys2Proof
end

