-- ==== Sys2Proof/Decode.lean ====
section
/-! DEFINITION. Decoding and encoding of the 32-bit command word, format CMD32 (R70, R71, R74). The word travels as
the data of one 32-bit write to CMD, so it has no byte order of its own (log 11). -/

namespace Sys2Proof

/-- Why a command word is illegal (R71). Safe: the machine takes such a word as the command ILLEGAL, it does not stop. -/
inductive DecodeError where
  /-- A nonzero bit in [31:4]. -/
  | nonzeroUpperBits
  /-- Bits [31:4] are zero and OP is 0 or 5 to 15. -/
  | reservedOpcode
deriving DecidableEq, Repr

/-- The field OP of a command word (R70). -/
def opField (w : Word) : BitVec 4 :=
  w.extractLsb' 0 4

/-- Bits [31:4] of a command word, which must be zero (R70). -/
def upperField (w : Word) : BitVec 28 :=
  w.extractLsb' 4 28

/-- The opcode table of R70. -/
def instrOfOp (op : BitVec 4) : Option Instr :=
  if op = 1#4 then some .cksum
  else if op = 2#4 then some .crc16
  else if op = 3#4 then some .encode
  else if op = 4#4 then some .decode
  else none

/-- The command a word encodes, or why it is illegal (R70, R71). -/
def decodeCommand (w : Word) : Except DecodeError Instr :=
  if upperField w = 0#28 then
    match instrOfOp (opField w) with
    | some i => .ok i
    | none => .error .reservedOpcode
  else .error .nonzeroUpperBits

/-- The command word of a command (R70). -/
def encode : Instr → Word
  | .cksum => 0x00000001#32
  | .crc16 => 0x00000002#32
  | .encode => 0x00000003#32
  | .decode => 0x00000004#32

/-- The command word whose `nbits` low bits are those of `w`, every bit above them zero. -/
def commandWordOfBits (nbits w : Nat) : Word :=
  BitVec.ofNat 32 (w % 2 ^ nbits)

/-- The command the decoder reads from an instruction whose bits are `w`, or none where it refuses. -/
def decodeTableWord (nbits w : Nat) : Option Instr :=
  match decodeCommand (commandWordOfBits nbits w) with
  | .ok i => some i
  | .error _ => none

end Sys2Proof
end

