-- ==== Sys2Proof/Machine/State.lean ====
section
/-! DEFINITION. The state of the block (10_state.md), the inputs of its host port and reset line (R42, R180), and
the state after reset (R12, R180). -/

namespace Sys2Proof.Machine

/-- The reasons a step could stop the machine. The spec has none: the block has no traps (R167), a command that cannot
complete normally completes with an error code (R160), a refused transaction is answered SLVERR (R42), and the block
never hangs (R187). So the type has no constructor (log 9): no step can fault. -/
inductive Fault where
deriving DecidableEq, Repr

/-- The reasons a step could be refused. -/
inductive Refusal where
  /-- Would be raised by an arm of `exec` whose command had no meaning. Safe. No arm raises it. -/
  | notModelled (mnemonic : String)
deriving DecidableEq, Repr

/-- The error codes of STATUS.ERR (R161). Codes 6 to 15 are reserved and never produced (R15), so the type has only
the six legal ones (log 10). -/
inductive ErrCode where
  /-- NONE, code 0. -/
  | noError
  /-- ILLEGAL_CMD, code 1. -/
  | illegalCmd
  /-- RANGE, code 2. -/
  | range
  /-- CT_NUL, code 3. -/
  | ctNul
  /-- OVERFLOW, code 4. -/
  | overflow
  /-- MALFORMED, code 5. -/
  | malformed
deriving DecidableEq, Repr

/-- What PEND can hold besides none: one of the four commands, or ILLEGAL (R32). -/
inductive Opcode where
  | command (i : Instr)
  | illegal
deriving DecidableEq, Repr

/-- The access sizes of a host transaction (R42). -/
inductive Size where
  | byte
  | half
  | word
deriving DecidableEq, Repr

/-- A transaction of the host port, `(dir, addr, size, wdata)` (R42). -/
inductive Txn where
  | read (addr : Word) (size : Size)
  | write (addr : Word) (size : Size) (wdata : Word)
deriving DecidableEq, Repr

/-- The response codes of the host port (R42). -/
inductive Resp where
  | okay
  | slverr
deriving DecidableEq, Repr

/-- The answer of the host port to a transaction, `(rdata, resp)` (R42). -/
structure Response where
  rdata : Word
  resp : Resp
deriving DecidableEq, Repr

/-- One move of one agent (R165): a host transaction, the core's turn, or the reset input taking a level. -/
inductive Event where
  | txn (t : Txn)
  | core
  | reset (asserted : Bool)
deriving DecidableEq, Repr

/-- The fields of register STATUS (R15). -/
structure Status where
  /-- [0] BUSY. -/
  busy : Bool
  /-- [1] DONE. -/
  done : Bool
  /-- [2] VALID. -/
  valid : Bool
  /-- [3] CK_OK. -/
  ckOk : Bool
  /-- [4] FCS_OK. -/
  fcsOk : Bool
  /-- [5] LEN_OK. -/
  lenOk : Bool
  /-- [6] MTU_OVF. -/
  mtuOvf : Bool
  /-- [7] HAZ. -/
  haz : Bool
  /-- [11:8] ERR. -/
  err : ErrCode
deriving DecidableEq, Repr

/-- The header bank (R24): one register per header field, each with its implemented width (R12). -/
structure HeaderBank where
  /-- H_SMAC_HI. -/
  smacHi : Word
  /-- H_SMAC_LO. -/
  smacLo : Half
  /-- H_DMAC_HI. -/
  dmacHi : Word
  /-- H_DMAC_LO. -/
  dmacLo : Half
  /-- H_ETYPE. -/
  etype : Half
  /-- H_VER. -/
  ver : BitVec 4
  /-- H_TTL. -/
  ttl : Byte
  /-- H_PROTO. -/
  proto : Byte
  /-- H_SIP. -/
  sip : Word
  /-- H_DIP. -/
  dip : Word
  /-- H_SPORT. -/
  sport : Half
  /-- H_DPORT. -/
  dport : Half
  /-- H_SEQ. -/
  seqNum : Word
  /-- H_ACK. -/
  ackNum : Word
  /-- H_FLAGS. -/
  flags : Byte
  /-- H_APPLEN. -/
  appLen : Word
deriving DecidableEq, Repr

/-- The bytes of a buffer that something has written since reset, by offset, offsets strictly rising
(`Memory.wf` in Machine/Ops.lean). An offset that is not listed has no value here; what a read of it gives is
`State.imemByte` and `State.omemByte` in Machine/Ops.lean (R181, log 2). -/
abbrev Memory := List Host.Cell

/-- The state of the block. Register names are those of R12; every field holds only the implemented bits. -/
structure State where
  /-- The open parameters of R3 (log 1). No step changes them. -/
  params : Params
  /-- CTRL: bit 0 is IE (R13). -/
  ctrl : BitVec 1
  /-- STATUS (R15). -/
  status : Status
  /-- MTU (R17). -/
  mtu : Half
  /-- A_OFF (R18). -/
  aOff : Word
  /-- A_LEN (R18). -/
  aLen : Word
  /-- B_OFF (R18). -/
  bOff : Word
  /-- B_LEN (R18). -/
  bLen : Word
  /-- RESULT (R19). -/
  result : Half
  /-- CK_CALC (R20). -/
  ckCalc : Half
  /-- CK_STORED (R20). -/
  ckStored : Half
  /-- FCS_CALC (R21). -/
  fcsCalc : Half
  /-- FCS_STORED (R21). -/
  fcsStored : Half
  /-- FRAME_LEN (R22). -/
  frameLen : Word
  /-- CT_OFF (R23). -/
  ctOff : Word
  /-- CT_LEN (R23). -/
  ctLen : Word
  /-- PL_OFF (R23). -/
  plOff : Word
  /-- PL_LEN (R23). -/
  plLen : Word
  /-- The header bank (R24). -/
  hdr : HeaderBank
  /-- IMEM (R31): the bytes the host has written since reset. -/
  imem : Memory
  /-- OMEM (R31): the bytes ENCODE has written since reset. -/
  omem : Memory
  /-- PEND, hidden (R32). -/
  pend : Option Opcode
  /-- The level of the reset input: true while it is asserted (R180, log 7). -/
  inReset : Bool
  /-- The MODEL's own: what the outside world and the schedule do next, the first entry first (log 4). -/
  script : List Event
  /-- The MODEL's own: the response to the last transaction since reset (R42, log 6). -/
  port : Option Response
  /-- The MODEL's own: how many resets there were; the free value of an unwritten byte depends on it (log 12). -/
  epoch : Nat
  /-- The MODEL's own: how many hazard reads there were; the free value of the next depends on it (log 12). -/
  draws : Nat
deriving DecidableEq, Repr

/-- STATUS after reset: every field 0 (R15, R180). -/
def Status.reset : Status where
  busy := false
  done := false
  valid := false
  ckOk := false
  fcsOk := false
  lenOk := false
  mtuOvf := false
  haz := false
  err := .noError

/-- The header bank after reset, and after a malformed DECODE: every register 0 (R12, R144). -/
def HeaderBank.zero : HeaderBank where
  smacHi := 0#32
  smacLo := 0#16
  dmacHi := 0#32
  dmacLo := 0#16
  etype := 0#16
  ver := 0#4
  ttl := 0#8
  proto := 0#8
  sip := 0#32
  dip := 0#32
  sport := 0#16
  dport := 0#16
  seqNum := 0#32
  ackNum := 0#32
  flags := 0#8
  appLen := 0#32

/-- The block right after reset is released, with buffers of the sizes `p` (R12's reset column, R180, R181). -/
def State.initial (p : Params) : State where
  params := p
  ctrl := 0#1
  status := .reset
  mtu := Config.mtuReset
  aOff := 0#32
  aLen := 0#32
  bOff := 0#32
  bLen := 0#32
  result := 0#16
  ckCalc := 0#16
  ckStored := 0#16
  fcsCalc := 0#16
  fcsStored := 0#16
  frameLen := 0#32
  ctOff := 0#32
  ctLen := 0#32
  plOff := 0#32
  plLen := 0#32
  hdr := .zero
  imem := []
  omem := []
  pend := none
  inReset := false
  script := []
  port := none
  epoch := 0
  draws := 0

/-- The block right after reset, with the suggested buffer sizes (log 1). -/
def State.reset : State :=
  State.initial Params.suggested

end Sys2Proof.Machine
end

