-- ==== Sys2Proof/Machine/Flags.lean ====
section
/-! DEFINITION. Every computation on STATUS the spec gives: the word the host reads (R15), the write-1-to-clear write
(R16), what acceptance and completion do to it (R185, R186), the results of ENCODE and DECODE (R127, R147), the hazard
flag (R191), and the interrupt output (R33). -/

namespace Sys2Proof.Machine

/-- The 4-bit code of an error (R161). -/
def ErrCode.code : ErrCode → BitVec 4
  | .noError => 0#4
  | .illegalCmd => 1#4
  | .range => 2#4
  | .ctNul => 3#4
  | .overflow => 4#4
  | .malformed => 5#4

/-- STATUS as the host reads it: ERR in [11:8], then HAZ, MTU_OVF, LEN_OK, FCS_OK, CK_OK, VALID, DONE, BUSY in bits 7
down to 0; bits [31:12] read 0 (R15, R30). -/
def Status.word (t : Status) : Word :=
  0#20 ++ t.err.code ++ BitVec.ofBool t.haz ++ BitVec.ofBool t.mtuOvf ++ BitVec.ofBool t.lenOk
    ++ BitVec.ofBool t.fcsOk ++ BitVec.ofBool t.ckOk ++ BitVec.ofBool t.valid ++ BitVec.ofBool t.done
    ++ BitVec.ofBool t.busy

/-- A host write of `w` to STATUS: bit 1 clears DONE, bit 7 clears HAZ, nothing else changes (R16). -/
def Status.writeOneToClear (w : Word) (t : Status) : Status :=
  { t with
    done := t.done && !w.getLsbD 1
    haz := t.haz && !w.getLsbD 7 }

/-- Acceptance sets BUSY and clears DONE, VALID, CK_OK, FCS_OK, LEN_OK, MTU_OVF and ERR; HAZ is kept (R185). -/
def Status.onAccept (t : Status) : Status :=
  { t with
    busy := true
    done := false
    valid := false
    ckOk := false
    fcsOk := false
    lenOk := false
    mtuOvf := false
    err := .noError }

/-- Completion clears BUSY, sets DONE and sets ERR (R186, R160). -/
def Status.onComplete (code : ErrCode) (t : Status) : Status :=
  { t with
    busy := false
    done := true
    err := code }

/-- The sticky hazard flag (R191, R192). -/
def Status.withHazard (t : Status) : Status :=
  { t with haz := true }

/-- MTU_OVF of a frame of `len` bytes: the frame without its 16-byte link header is longer than MTU (R127). -/
def mtuOverflow (len : Nat) (mtu : Half) : Bool :=
  decide (len - 16 > mtu.toNat)

/-- The four validity flags of a DECODE that is not malformed: VALID = CK_OK & FCS_OK & LEN_OK (R147). -/
def Status.withValidity (ckOk fcsOk lenOk : Bool) (t : Status) : Status :=
  { t with
    ckOk := ckOk
    fcsOk := fcsOk
    lenOk := lenOk
    valid := ckOk && fcsOk && lenOk }

/-- CTRL.IE (R13). -/
def State.ie (s : State) : Bool :=
  s.ctrl == 1#1

/-- The interrupt output, `STATUS.DONE & CTRL.IE` (R33, R166). -/
def State.irq (s : State) : Bool :=
  s.status.done && s.ie

end Sys2Proof.Machine
end

