-- ==== Sys2Proof/Machine/Ops.lean ====
section
/-! DEFINITION. The named operations of the machine: the byte primitives (40_primitives.md section 1), the buffers
(R31, R46, R47, R181), acceptance and completion of a command, raising an error (R160), and reset (R180). -/

namespace Sys2Proof.Machine

/-! ## Byte primitives (R90 to R93) -/

/-- `be_N(v)`: the N-byte big-endian encoding of v, bits above 8N dropped (R90, R91). -/
def beBytes : Nat → Nat → List Byte
  | 0, _ => []
  | n + 1, v => BitVec.ofNat 8 (v >>> (8 * n)) :: beBytes n v

/-- The unsigned integer whose big-endian encoding is a byte sequence (R92). -/
def beValue (bs : List Byte) : Nat :=
  bs.foldl (fun acc b => acc * 256 + b.toNat) 0

/-- `s[i..j)`, empty when j <= i (R5). -/
def slice (bs : List Byte) (i j : Nat) : List Byte :=
  (bs.take j).drop i

/-- `rd_be(s, i, N)` (R92). -/
def rdBe (bs : List Byte) (i n : Nat) : Nat :=
  beValue (slice bs i (i + n))

/-- `s[i]` of a sequence that has it (R5); the rules index only inside the sequence. -/
def byteAt (bs : List Byte) (i : Nat) : Byte :=
  bs.getD i 0#8

/-! ## Buffers (R31) -/

/-- The canonical form: offsets strictly rise. An unlisted offset has no value, so no entry can equal it (log 2). -/
def Memory.wf : Memory → Bool
  | [] => true
  | [_] => true
  | (a, _) :: (a', b') :: rest => decide (a < a') && Memory.wf ((a', b') :: rest)

/-- Every listed offset lies inside a buffer of `size` bytes. -/
def Memory.within (size : Nat) (m : Memory) : Bool :=
  m.all fun cell => decide (cell.1 < size)

/-- The byte written at an offset, if any was. -/
def Memory.get : Memory → Nat → Option Byte
  | [], _ => none
  | (k, b) :: rest, a => if k = a then some b else Memory.get rest a

/-- Write one byte, keeping the canonical form. -/
def Memory.set : Memory → Nat → Byte → Memory
  | [], a, b => [(a, b)]
  | (k, c) :: rest, a, b =>
    if a < k then (a, b) :: (k, c) :: rest
    else if a = k then (a, b) :: rest
    else (k, c) :: Memory.set rest a b

/-- Write a byte sequence from offset `a` on (R44, R47). -/
def Memory.setBytes : Memory → Nat → List Byte → Memory
  | m, _, [] => m
  | m, a, b :: bs => Memory.setBytes (Memory.set m a b) (a + 1) bs

/-- IMEM[i]: the byte written since reset, else an unspecified value (R181, log 2). -/
def State.imemByte (s : State) (i : Nat) : Byte :=
  (Memory.get s.imem i).getD (Config.unwrittenByte s.epoch .imem i)

/-- OMEM[i]: the byte written since reset, else an unspecified value (R181, log 2). -/
def State.omemByte (s : State) (i : Nat) : Byte :=
  (Memory.get s.omem i).getD (Config.unwrittenByte s.epoch .omem i)

/-- The bytes at offsets a to a+n-1 of a buffer. -/
def readBytes (byte : Nat → Byte) (a n : Nat) : List Byte :=
  (List.range' a n).map byte

/-- `MemRead(IMEM, a, n)` (R46). -/
def State.memReadImem (s : State) (a n : Nat) : List Byte :=
  readBytes s.imemByte a n

/-- `MemWrite(OMEM, a, bs)` (R47). -/
def State.memWriteOmem (s : State) (a : Nat) (bs : List Byte) : State :=
  { s with omem := Memory.setBytes s.omem a bs }

/-! ## Acceptance and completion of a command -/

/-- The opcode of a command word, ILLEGAL for an illegal word (R71, R185). -/
def opcodeOf (w : Word) : Opcode :=
  match decodeCommand w with
  | .ok i => .command i
  | .error _ => .illegal

/-- Acceptance of the command word `w` (R185). -/
def acceptCommand (w : Word) (s : State) : State :=
  { s with
    pend := some (opcodeOf w)
    status := s.status.onAccept }

/-- The end of every completion step: STATUS.ERR <- code, BUSY <- 0, DONE <- 1, PEND <- none (R186). -/
def complete (code : ErrCode) (s : State) : State :=
  { s with
    pend := none
    status := s.status.onComplete code }

/-- `raise Error(code)`: the command ends at once and writes nothing more (R160). There is no vector, no saved state
and no mode change (R167), and no return operation (R168): this is the whole of taking an exception. -/
def raiseError (code : ErrCode) (s : State) : State :=
  complete code s

/-- The completion of an ILLEGAL word: ERR = ILLEGAL_CMD and nothing else (R162). -/
def completeIllegal (s : State) : State :=
  raiseError .illegalCmd s

/-! ## Hazards and reset -/

/-- STATUS.HAZ <- 1 and nothing else: what a dropped write does (R191). -/
def setHazard (s : State) : State :=
  { s with status := s.status.withHazard }

/-- Every register at its reset value, PEND = none, both buffers unspecified anew; the input is at `level` (R180,
R181). The parameters and the schedule are not the block's to change. -/
def resetAll (level : Bool) (s : State) : State :=
  { State.initial s.params with
    inReset := level
    script := s.script
    epoch := s.epoch + 1
    draws := s.draws }

/-- The reset input takes a level. Asserting it, and releasing it after it was asserted, puts every register at its
reset value (R180); a release of an input that is not asserted is no event (log 7). -/
def applyReset (level : Bool) (s : State) : State :=
  if level || s.inReset then resetAll level s else s

end Sys2Proof.Machine
end

