-- ==== Sys2Proof/Machine/Operands.lean ====
section
/-! DEFINITION. Every operand form: the registers of R12 by offset, each with its read, its write action and its
busy-time class (R13 to R30, R190 to R192), the two operand regions (R18, R163), and the header serializers (R94 to
R98). -/

namespace Sys2Proof.Machine

/-! ## The register window (R12) -/

/-- The registers of R12, in the order of their offsets. -/
inductive Reg where
  | ctrl | cmd | status | mtu | aOff | aLen | bOff | bLen
  | result | ckCalc | ckStored | fcsCalc | fcsStored | frameLen | ctOff | ctLen | plOff | plLen
  | hSmacHi | hSmacLo | hDmacHi | hDmacLo | hEtype | hVer | hTtl | hProto
  | hSip | hDip | hSport | hDport | hSeq | hAck | hFlags | hApplen
deriving DecidableEq, Repr

/-- The offset of a register (R12). -/
def Reg.offset : Reg → Nat
  | .ctrl => 0x000
  | .cmd => 0x004
  | .status => 0x008
  | .mtu => 0x00C
  | .aOff => 0x010
  | .aLen => 0x014
  | .bOff => 0x018
  | .bLen => 0x01C
  | .result => 0x020
  | .ckCalc => 0x024
  | .ckStored => 0x028
  | .fcsCalc => 0x02C
  | .fcsStored => 0x030
  | .frameLen => 0x034
  | .ctOff => 0x038
  | .ctLen => 0x03C
  | .plOff => 0x040
  | .plLen => 0x044
  | .hSmacHi => 0x080
  | .hSmacLo => 0x084
  | .hDmacHi => 0x088
  | .hDmacLo => 0x08C
  | .hEtype => 0x090
  | .hVer => 0x094
  | .hTtl => 0x098
  | .hProto => 0x09C
  | .hSip => 0x0A0
  | .hDip => 0x0A4
  | .hSport => 0x0A8
  | .hDport => 0x0AC
  | .hSeq => 0x0B0
  | .hAck => 0x0B4
  | .hFlags => 0x0B8
  | .hApplen => 0x0BC

/-- Every register, in the order of R12. -/
def Reg.all : List Reg :=
  [.ctrl, .cmd, .status, .mtu, .aOff, .aLen, .bOff, .bLen,
    .result, .ckCalc, .ckStored, .fcsCalc, .fcsStored, .frameLen, .ctOff, .ctLen, .plOff, .plLen,
    .hSmacHi, .hSmacLo, .hDmacHi, .hDmacLo, .hEtype, .hVer, .hTtl, .hProto,
    .hSip, .hDip, .hSport, .hDport, .hSeq, .hAck, .hFlags, .hApplen]

/-- The register at an offset; none at the reserved offsets (R12, R30). -/
def regAt (offset : Nat) : Option Reg :=
  Reg.all.find? fun r => r.offset == offset

/-- What a read of a register returns when no hazard holds: reserved bits 0 (R30), CMD reads 0 (R14). -/
def State.readReg (s : State) : Reg → Word
  | .ctrl => s.ctrl.setWidth 32
  | .cmd => 0#32
  | .status => s.status.word
  | .mtu => s.mtu.setWidth 32
  | .aOff => s.aOff
  | .aLen => s.aLen
  | .bOff => s.bOff
  | .bLen => s.bLen
  | .result => s.result.setWidth 32
  | .ckCalc => s.ckCalc.setWidth 32
  | .ckStored => s.ckStored.setWidth 32
  | .fcsCalc => s.fcsCalc.setWidth 32
  | .fcsStored => s.fcsStored.setWidth 32
  | .frameLen => s.frameLen
  | .ctOff => s.ctOff
  | .ctLen => s.ctLen
  | .plOff => s.plOff
  | .plLen => s.plLen
  | .hSmacHi => s.hdr.smacHi
  | .hSmacLo => s.hdr.smacLo.setWidth 32
  | .hDmacHi => s.hdr.dmacHi
  | .hDmacLo => s.hdr.dmacLo.setWidth 32
  | .hEtype => s.hdr.etype.setWidth 32
  | .hVer => s.hdr.ver.setWidth 32
  | .hTtl => s.hdr.ttl.setWidth 32
  | .hProto => s.hdr.proto.setWidth 32
  | .hSip => s.hdr.sip
  | .hDip => s.hdr.dip
  | .hSport => s.hdr.sport.setWidth 32
  | .hDport => s.hdr.dport.setWidth 32
  | .hSeq => s.hdr.seqNum
  | .hAck => s.hdr.ackNum
  | .hFlags => s.hdr.flags.setWidth 32
  | .hApplen => s.hdr.appLen

/-- The write action of a register when no hazard holds: a value wider than the register is truncated (R29), CMD
accepts a command (R185), STATUS clears by ones (R16), a read-only register ignores the write (R30). -/
def State.writeReg (s : State) (w : Word) : Reg → State
  | .ctrl => { s with ctrl := w.setWidth 1 }
  | .cmd => acceptCommand w s
  | .status => { s with status := s.status.writeOneToClear w }
  | .mtu => { s with mtu := w.setWidth 16 }
  | .aOff => { s with aOff := w }
  | .aLen => { s with aLen := w }
  | .bOff => { s with bOff := w }
  | .bLen => { s with bLen := w }
  | .result => s
  | .ckCalc => s
  | .ckStored => s
  | .fcsCalc => s
  | .fcsStored => s
  | .frameLen => s
  | .ctOff => s
  | .ctLen => s
  | .plOff => s
  | .plLen => s
  | .hSmacHi => { s with hdr := { s.hdr with smacHi := w } }
  | .hSmacLo => { s with hdr := { s.hdr with smacLo := w.setWidth 16 } }
  | .hDmacHi => { s with hdr := { s.hdr with dmacHi := w } }
  | .hDmacLo => { s with hdr := { s.hdr with dmacLo := w.setWidth 16 } }
  | .hEtype => { s with hdr := { s.hdr with etype := w.setWidth 16 } }
  | .hVer => { s with hdr := { s.hdr with ver := w.setWidth 4 } }
  | .hTtl => { s with hdr := { s.hdr with ttl := w.setWidth 8 } }
  | .hProto => { s with hdr := { s.hdr with proto := w.setWidth 8 } }
  | .hSip => { s with hdr := { s.hdr with sip := w } }
  | .hDip => { s with hdr := { s.hdr with dip := w } }
  | .hSport => { s with hdr := { s.hdr with sport := w.setWidth 16 } }
  | .hDport => { s with hdr := { s.hdr with dport := w.setWidth 16 } }
  | .hSeq => { s with hdr := { s.hdr with seqNum := w } }
  | .hAck => { s with hdr := { s.hdr with ackNum := w } }
  | .hFlags => { s with hdr := { s.hdr with flags := w.setWidth 8 } }
  | .hApplen => { s with hdr := { s.hdr with appLen := w } }

/-- The result registers RESULT to PL_LEN (R19 to R23). -/
def Reg.isResult (r : Reg) : Bool :=
  decide (0x020 ≤ r.offset) && decide (r.offset ≤ 0x044)

/-- The header-bank registers (R24). -/
def Reg.isHeader (r : Reg) : Bool :=
  decide (0x080 ≤ r.offset)

/-- The registers whose read while a command is pending is a hazard: those the command may write (R192). -/
def Reg.readIsHazard (r : Reg) : Bool :=
  r.isResult || r.isHeader

/-- The registers whose write while a command is pending is dropped: all but CTRL and STATUS (R190, R191). -/
def Reg.writeIsHazard (r : Reg) : Bool :=
  !(r == .ctrl || r == .status)

/-! ## Operand regions (R18) -/

/-- A region is legal when OFF + LEN <= IMEM_BYTES, in unbounded arithmetic (R163). -/
def regionLegal (p : Params) (off len : Word) : Bool :=
  decide (off.toNat + len.toNat ≤ p.imemBytes)

/-- Region A is legal (R163). -/
def State.regionALegal (s : State) : Bool :=
  regionLegal s.params s.aOff s.aLen

/-- Region B is legal (R163). -/
def State.regionBLegal (s : State) : Bool :=
  regionLegal s.params s.bOff s.bLen

/-- The bytes of region A, IMEM[A_OFF .. A_OFF+A_LEN) (R18). -/
def State.regionA (s : State) : List Byte :=
  s.memReadImem s.aOff.toNat s.aLen.toNat

/-- The bytes of region B, IMEM[B_OFF .. B_OFF+B_LEN) (R18). -/
def State.regionB (s : State) : List Byte :=
  s.memReadImem s.bOff.toNat s.bLen.toNat

/-! ## Header serializers (40_primitives.md section 2) -/

/-- The byte `H_FLAGS & 0x07` (R65, R122). -/
def HeaderBank.flagsByte (h : HeaderBank) : Byte :=
  h.flags &&& 0x07#8

/-- The version byte `(H_VER << 4) & 0xFF` (R64). -/
def HeaderBank.versionByte (h : HeaderBank) : Byte :=
  h.ver.setWidth 8 <<< 4

/-- `LINK()`, the 14-byte link header without FCS (R94). -/
def HeaderBank.link (h : HeaderBank) : List Byte :=
  beBytes 4 h.smacHi.toNat ++ beBytes 2 h.smacLo.toNat ++ beBytes 4 h.dmacHi.toNat ++ beBytes 2 h.dmacLo.toNat
    ++ beBytes 2 h.etype.toNat

/-- `NET()`, the 11-byte network header (R95). -/
def HeaderBank.net (h : HeaderBank) : List Byte :=
  [h.versionByte] ++ [h.ttl] ++ [h.proto] ++ beBytes 4 h.sip.toNat ++ beBytes 4 h.dip.toNat

/-- The 13 bytes that PSEUDO and TRANS share (R97): ports, sequence and acknowledgment numbers, flags byte. -/
def HeaderBank.transFixed (h : HeaderBank) : List Byte :=
  beBytes 2 h.sport.toNat ++ beBytes 2 h.dport.toNat ++ beBytes 4 h.seqNum.toNat ++ beBytes 4 h.ackNum.toNat
    ++ [h.flagsByte]

/-- `PSEUDO()`, the 14-byte pseudo-header (R66, R96). -/
def HeaderBank.pseudo (h : HeaderBank) : List Byte :=
  h.transFixed ++ [0x00#8]

/-- `TRANS(ck)`, the 15-byte transport header (R97). -/
def HeaderBank.trans (h : HeaderBank) (ck : Half) : List Byte :=
  h.transFixed ++ beBytes 2 ck.toNat

/-- `APP(ct)`, the application header (R69, R98). -/
def HeaderBank.app (h : HeaderBank) (ct : List Byte) : List Byte :=
  ct ++ [0x00#8] ++ beBytes 4 h.appLen.toNat

end Sys2Proof.Machine
end

