-- ==== Sys2Proof/Machine/Checksum.lean ====
section
/-! DEFINITION. The Internet checksum unit and the CKSUM command (41_checksum.md). -/

namespace Sys2Proof.Machine

/-- The end-around carry after one addition (R100, C4). -/
def foldCarry (sum : Nat) : Nat :=
  sum % 0x10000 + sum / 0x10000

/-- The folded sum of a byte sequence taken as big-endian 16-bit words, from a running sum; an odd trailing byte is
padded with a zero low byte (R100). -/
def foldedSum : Nat → List Byte → Nat
  | sum, [] => sum
  | sum, [hi] => foldCarry (sum + hi.toNat * 256)
  | sum, hi :: lo :: rest => foldedSum (foldCarry (sum + (hi.toNat * 256 + lo.toNat))) rest

/-- `InetChecksum(s)`: the complement of the folded sum, with no special case for zero (R100, R103). -/
def inetChecksum (bs : List Byte) : Half :=
  ~~~(BitVec.ofNat 16 (foldedSum 0 bs))

/-- CKSUM (R101). -/
def execCksum (s : State) : Host.Outcome State Fault Refusal :=
  .next <|
    if s.regionALegal then complete .noError { s with result := inetChecksum s.regionA }
    else raiseError .range s

end Sys2Proof.Machine
end

