-- ==== Sys2Proof/Machine/Crc.lean ====
section
/-! DEFINITION. The CRC-16 unit and the CRC16 command (42_crc16.md). -/

namespace Sys2Proof.Machine

/-- One of the 8 iterations per byte: shift left one, and XOR with 0x1021 if the top bit was set (R110). -/
def crcBit (r : Half) : Half :=
  if r.msb then (r <<< 1) ^^^ 0x1021#16 else r <<< 1

/-- One input byte: XOR into the high byte of the register, then 8 iterations (R110). -/
def crcByte (r : Half) (b : Byte) : Half :=
  crcBit (crcBit (crcBit (crcBit (crcBit (crcBit (crcBit (crcBit (r ^^^ (b.setWidth 16 <<< 8)))))))))

/-- The loop of R110 from a given register value; R113 uses it from 0x0000. -/
def crcFrom (r : Half) (bs : List Byte) : Half :=
  bs.foldl crcByte r

/-- `CRC16(s)`: initial value 0xFFFF, polynomial 0x1021, no reflection, no final XOR (R110, R112, C1). -/
def crc16 (bs : List Byte) : Half :=
  crcFrom 0xFFFF#16 bs

/-- CRC16 (R111). -/
def execCrc16 (s : State) : Host.Outcome State Fault Refusal :=
  .next <|
    if s.regionALegal then complete .noError { s with result := crc16 s.regionA }
    else raiseError .range s

end Sys2Proof.Machine
end

