-- ==== Sys2Proof/Machine/Decoder.lean ====
section
/-! DEFINITION. The frame decoder and the DECODE command (44_decode.md). -/

namespace Sys2Proof.Machine

/-- The least offset q >= 42 with f[q] = 0x00, or none (R142). -/
def terminator (f : List Byte) : Option Nat :=
  ((f.drop 42).findIdx? fun b => b == 0x00#8).map fun k => k + 42

/-- The offset of the terminator of a well-formed frame; none when the frame is malformed: shorter than 42 bytes,
without a terminator, or with fewer than 4 bytes after it (R143). -/
def wellFormedAt (f : List Byte) : Option Nat :=
  if f.length < 42 then none
  else
    match terminator f with
    | none => none
    | some q => if q + 5 > f.length then none else some q

/-- The header bank of a frame whose terminator is at `q` (R145, pseudocode of R140). -/
def parseHeader (f : List Byte) (q : Nat) : HeaderBank where
  smacHi := BitVec.ofNat 32 (rdBe f 0 4)
  smacLo := BitVec.ofNat 16 (rdBe f 4 2)
  dmacHi := BitVec.ofNat 32 (rdBe f 6 4)
  dmacLo := BitVec.ofNat 16 (rdBe f 10 2)
  etype := BitVec.ofNat 16 (rdBe f 12 2)
  ver := (byteAt f 16 >>> 4).setWidth 4
  ttl := byteAt f 17
  proto := byteAt f 18
  sip := BitVec.ofNat 32 (rdBe f 19 4)
  dip := BitVec.ofNat 32 (rdBe f 23 4)
  sport := BitVec.ofNat 16 (rdBe f 27 2)
  dport := BitVec.ofNat 16 (rdBe f 29 2)
  seqNum := BitVec.ofNat 32 (rdBe f 31 4)
  ackNum := BitVec.ofNat 32 (rdBe f 35 4)
  flags := byteAt f 39
  appLen := BitVec.ofNat 32 (rdBe f (q + 1) 4)

/-- The pseudo-header the decoder rebuilds, with the received flags byte unchanged and a zero byte (R146). -/
def rebuiltPseudo (f : List Byte) : List Byte :=
  beBytes 2 (rdBe f 27 2) ++ beBytes 2 (rdBe f 29 2) ++ beBytes 4 (rdBe f 31 4) ++ beBytes 4 (rdBe f 35 4)
    ++ [byteAt f 39] ++ [0x00#8]

/-- The payload: every byte from q+5 on (R142). -/
def framePayload (f : List Byte) (q : Nat) : List Byte :=
  f.drop (q + 5)

/-- The recomputed checksum (R146). -/
def decodedChecksum (f : List Byte) (q : Nat) : Half :=
  inetChecksum (rebuiltPseudo f ++ framePayload f q)

/-- The checksum stored in the frame (R140). -/
def storedChecksum (f : List Byte) : Half :=
  BitVec.ofNat 16 (rdBe f 40 2)

/-- The recomputed FCS, over every byte but the FCS slot (R115, R146). -/
def decodedFcs (f : List Byte) : Half :=
  crc16 (f.take 14 ++ f.drop 16)

/-- The FCS stored in the frame (R140). -/
def storedFcs (f : List Byte) : Half :=
  BitVec.ofNat 16 (rdBe f 14 2)

/-- Declared length = actual payload length, `N - (q + 5)` (R147). -/
def lengthMatches (f : List Byte) (q : Nat) : Bool :=
  rdBe f (q + 1) 4 == f.length - (q + 5)

/-- The writes of a DECODE that is not malformed, FRAME_LEN and ERR apart (R140, R145 to R149). -/
def writeDecoded (f : List Byte) (q : Nat) (s : State) : State :=
  { s with
    hdr := parseHeader f q
    ckCalc := decodedChecksum f q
    ckStored := storedChecksum f
    fcsCalc := decodedFcs f
    fcsStored := storedFcs f
    ctOff := BitVec.ofNat 32 (s.aOff.toNat + 42)
    ctLen := BitVec.ofNat 32 (q - 42)
    plOff := BitVec.ofNat 32 (s.aOff.toNat + q + 5)
    plLen := BitVec.ofNat 32 (f.length - (q + 5))
    status := s.status.withValidity (decodedChecksum f q == storedChecksum f) (decodedFcs f == storedFcs f)
      (lengthMatches f q) }

/-- The zeroing of a malformed DECODE, FRAME_LEN apart (R144). -/
def writeMalformed (s : State) : State :=
  { s with
    hdr := .zero
    ckCalc := 0#16
    ckStored := 0#16
    fcsCalc := 0#16
    fcsStored := 0#16
    ctOff := 0#32
    ctLen := 0#32
    plOff := 0#32
    plLen := 0#32 }

/-- DECODE after the range check, on the frame `f` of region A (R140). -/
def decodeFrame (f : List Byte) (s : State) : State :=
  match wellFormedAt f with
  | none => raiseError .malformed (writeMalformed { s with frameLen := s.aLen })
  | some q => complete .noError (writeDecoded f q { s with frameLen := s.aLen })

/-- DECODE (R140). -/
def execDecode (s : State) : Host.Outcome State Fault Refusal :=
  .next <|
    if s.regionALegal then decodeFrame s.regionA s
    else raiseError .range s

end Sys2Proof.Machine
end

