-- ==== Sys2Proof/Machine/Encoder.lean ====
section
/-! DEFINITION. The frame encoder and the ENCODE command (43_encode.md). -/

namespace Sys2Proof.Machine

/-- The length of a frame with a contentType of `c` bytes and a payload of `p` bytes (R63). -/
def frameLength (c p : Nat) : Nat :=
  47 + c + p

/-- The transport checksum of a frame, `InetChecksum(PSEUDO() ‖ pl)` (R123). -/
def frameChecksum (h : HeaderBank) (pl : List Byte) : Half :=
  inetChecksum (h.pseudo ++ pl)

/-- Everything after the FCS, `NET() ‖ TRANS(ck) ‖ APP(ct) ‖ pl` (R120). -/
def frameBody (h : HeaderBank) (ct pl : List Byte) : List Byte :=
  h.net ++ h.trans (frameChecksum h pl) ++ h.app ct ++ pl

/-- The FCS of a frame, `CRC16(LINK() ‖ body)` (R125). -/
def frameFcs (h : HeaderBank) (ct pl : List Byte) : Half :=
  crc16 (h.link ++ frameBody h ct pl)

/-- The frame, `LINK() ‖ be_2(fcs) ‖ body` (R124). -/
def encodeFrame (h : HeaderBank) (ct pl : List Byte) : List Byte :=
  h.link ++ beBytes 2 (frameFcs h ct pl).toNat ++ frameBody h ct pl

/-- The writes of a successful ENCODE before its completion (R120, R126, R127). -/
def writeEncoded (s : State) : State :=
  let ck := frameChecksum s.hdr s.regionB
  let fcs := frameFcs s.hdr s.regionA s.regionB
  let len := frameLength s.aLen.toNat s.bLen.toNat
  { s.memWriteOmem 0 (encodeFrame s.hdr s.regionA s.regionB) with
    frameLen := BitVec.ofNat 32 len
    ckCalc := ck
    ckStored := ck
    fcsCalc := fcs
    fcsStored := fcs
    result := fcs
    status := { s.status with mtuOvf := mtuOverflow len s.mtu } }

/-- ENCODE (R120): RANGE for region A, then for region B, then CT_NUL, then OVERFLOW (R164). -/
def execEncode (s : State) : Host.Outcome State Fault Refusal :=
  .next <|
    if !s.regionALegal then raiseError .range s
    else if !s.regionBLegal then raiseError .range s
    else if s.regionA.contains 0x00#8 then raiseError .ctNul s
    else if frameLength s.aLen.toNat s.bLen.toNat > s.params.omemBytes then
      raiseError .overflow { s with frameLen := BitVec.ofNat 32 (frameLength s.aLen.toNat s.bLen.toNat) }
    else complete .noError (writeEncoded s)

end Sys2Proof.Machine
end

