-- ==== Sys2Proof/Machine/HostPort.lean ====
section
/-! DEFINITION. The host port: the address map, the effect and the response of every transaction, and the busy rules
(20_memory.md, 70_reset_and_hazards.md section 3). -/

namespace Sys2Proof.Machine

/-- The number of bytes of an access (R42). -/
def Size.bytes : Size → Nat
  | .byte => 1
  | .half => 2
  | .word => 4

/-- Where an address leads, with the offset inside the window (R41). -/
inductive Target where
  | registers (offset : Nat)
  | imem (offset : Nat)
  | omem (offset : Nat)
  | unmapped
deriving DecidableEq, Repr

/-- The host address map (R41). -/
def target (addr : Word) : Target :=
  if addr.toNat < 0x100 then .registers addr.toNat
  else if addr.toNat < 0x10000 then .unmapped
  else if addr.toNat < 0x20000 then .imem (addr.toNat - 0x10000)
  else if addr.toNat < 0x30000 then .omem (addr.toNat - 0x20000)
  else .unmapped

/-- A register-window access must be a whole aligned word (R43). -/
def registerAccessLegal (offset : Nat) (size : Size) : Bool :=
  size == .word && offset % 4 == 0

/-- A buffer access must be naturally aligned and wholly inside the buffer (R44). -/
def bufferAccessLegal (capacity offset : Nat) (size : Size) : Bool :=
  offset % size.bytes == 0 && decide (offset + size.bytes ≤ capacity)

/-- The response OKAY with read data. -/
def okay (rdata : Word) : Response where
  rdata := rdata
  resp := .okay

/-- The response SLVERR, whose rdata is 0 (R42). -/
def slverr : Response where
  rdata := 0#32
  resp := .slverr

/-- A hazard read: HAZ is set and the data is a fresh unspecified 32-bit value (R192, log 3). -/
def hazardRead (s : State) : State × Response :=
  ({ setHazard s with draws := s.draws + 1 }, okay (Config.hazardRead s.draws))

/-- The big-endian value of a buffer access (R44). -/
def bufferValue (byte : Nat → Byte) (offset : Nat) (size : Size) : Word :=
  BitVec.ofNat 32 (beValue (readBytes byte offset size.bytes))

/-- A read of the register window at a legal offset (R30, R43, R190, R192). -/
def readRegister (offset : Nat) (s : State) : State × Response :=
  match regAt offset with
  | none => (s, okay 0#32)
  | some r => if s.pend.isSome && r.readIsHazard then hazardRead s else (s, okay (s.readReg r))

/-- A write of the register window at a legal offset (R30, R43, R190, R191). -/
def writeRegister (offset : Nat) (w : Word) (s : State) : State :=
  match regAt offset with
  | none => s
  | some r => if s.pend.isSome && r.writeIsHazard then setHazard s else s.writeReg w r

/-- A legal write of IMEM: `be_n(wdata)` at IMEM[i..i+n) when idle, dropped while a command is pending (R44, R191). -/
def writeImem (offset : Nat) (size : Size) (w : Word) (s : State) : State :=
  if s.pend.isSome then setHazard s
  else { s with imem := Memory.setBytes s.imem offset (beBytes size.bytes w.toNat) }

/-- A READ transaction. -/
def hostRead (addr : Word) (size : Size) (s : State) : State × Response :=
  match target addr with
  | .registers offset => if registerAccessLegal offset size then readRegister offset s else (s, slverr)
  | .imem offset =>
    if bufferAccessLegal s.params.imemBytes offset size then (s, okay (bufferValue s.imemByte offset size))
    else (s, slverr)
  | .omem offset =>
    if bufferAccessLegal s.params.omemBytes offset size then
      if s.pend.isSome then hazardRead s else (s, okay (bufferValue s.omemByte offset size))
    else (s, slverr)
  | .unmapped => (s, slverr)

/-- A WRITE transaction; the rdata of its response is 0 (R42). OMEM is read-only to the host (R48). -/
def hostWrite (addr : Word) (size : Size) (w : Word) (s : State) : State × Response :=
  match target addr with
  | .registers offset =>
    if registerAccessLegal offset size then (writeRegister offset w s, okay 0#32) else (s, slverr)
  | .imem offset =>
    if bufferAccessLegal s.params.imemBytes offset size then (writeImem offset size w s, okay 0#32)
    else (s, slverr)
  | .omem _ => (s, slverr)
  | .unmapped => (s, slverr)

/-- A transaction, with its response. While reset is asserted it has no effect and answers SLVERR (R180). -/
def hostAccess (t : Txn) (s : State) : State × Response :=
  if s.inReset then (s, slverr)
  else
    match t with
    | .read addr size => hostRead addr size s
    | .write addr size w => hostWrite addr size w s

/-- A transaction as a step of the machine: the response stands on the host port (log 6). -/
def hostTransaction (t : Txn) (s : State) : State :=
  { (hostAccess t s).1 with port := some (hostAccess t s).2 }

end Sys2Proof.Machine
end

