-- ==== Sys2Proof/Machine/Agents.lean ====
section
/-! DEFINITION. One step of each agent (R165): the core's completion step (R186), a host transaction (R42), and the
reset input (R180); and the loading of a command word that `State.withFetchWord` uses. -/

namespace Sys2Proof.Machine

/-- The core's turn: the completion step of the pending command; no step when PEND = none (R186), and none while
reset is asserted (R180). -/
def coreStep (s : State) : Host.Outcome State Fault Refusal :=
  if s.inReset then .next s
  else
    match s.pend with
    | none => .next s
    | some .illegal => .next (completeIllegal s)
    | some (.command i) => exec i s

/-- One move of one agent. -/
def agentStep (e : Event) (s : State) : Host.Outcome State Fault Refusal :=
  match e with
  | .txn t => .next (hostTransaction t s)
  | .core => coreStep s
  | .reset level => .next (applyReset level s)

/-- One step of the block: the agent that `script` names moves; when nothing is left in it the core moves, so that
every accepted command completes (R187, log 4). -/
def machineStep (s : State) : Host.Outcome State Fault Refusal :=
  match s.script with
  | [] => coreStep s
  | e :: rest => agentStep e { s with script := rest }

/-- The schedule with the core's turn first: an empty schedule gives it already. -/
def coreFirst : List Event → List Event
  | [] => []
  | e :: rest => .core :: e :: rest

/-- The state in which the command word `w` has just been accepted and the core moves next (log 5). -/
def loadCommand (w : Word) (s : State) : State :=
  { acceptCommand w s with
    inReset := false
    script := coreFirst s.script }

end Sys2Proof.Machine
end

