-- ==== Sys2Proof/Machine/Step.lean ====
section
/-! DEFINITION. One step of the machine, and the state in which a given command word is the next the core completes. -/

namespace Sys2Proof.Machine

/-- One step of the block (R165, R186). -/
def step (s : State) : Host.Outcome State Fault Refusal :=
  machineStep s

/-- The state in which the command word with the bits `w` is accepted and pending, and the next step completes it
(R32, R185, log 5). -/
def State.withFetchWord (s : State) (nbits w : Nat) : State :=
  loadCommand (commandWordOfBits nbits w) s

end Sys2Proof.Machine
end

