-- ==== Sys2Proof/Safety.lean ====
section
/-! DEFINITION. What counts as a safe run: the invariant of the block (`Machine.Invariant`), the transactions that break
the busy rules (R191, R192), and the step that never stops (R187). -/

namespace Sys2Proof.Machine

/-- The register values a state shows are those of reset, and nothing is pending or written (R12, R180). The parameters
and the model's own fields are not the block's registers. -/
def AtReset (s : State) : Prop :=
  s = { State.initial s.params with
        inReset := s.inReset
        script := s.script
        port := s.port
        epoch := s.epoch
        draws := s.draws }

/-- The five result flags of STATUS are 0 (R15, R185). -/
def Status.ResultsClear (t : Status) : Prop :=
  t.valid = false ∧ t.ckOk = false ∧ t.fcsOk = false ∧ t.lenOk = false ∧ t.mtuOvf = false

/-- The invariant of the block. -/
structure Invariant (s : State) : Prop where
  /-- The buffer sizes lie in R3's range. -/
  params_wf : s.params.wf = true
  /-- IMEM is in canonical form. -/
  imem_wf : Memory.wf s.imem = true
  /-- OMEM is in canonical form. -/
  omem_wf : Memory.wf s.omem = true
  /-- Only bytes of IMEM are listed (R31, R44). -/
  imem_within : Memory.within s.params.imemBytes s.imem = true
  /-- Only bytes of OMEM are listed (R31, R47). -/
  omem_within : Memory.within s.params.omemBytes s.omem = true
  /-- BUSY = 1 exactly when PEND is not none (R32). -/
  busy_iff : s.status.busy = s.pend.isSome
  /-- While a command is pending DONE, ERR and the result flags are as acceptance left them (R15, R185). -/
  pending_clear : s.pend.isSome = true →
    s.status.done = false ∧ s.status.err = .noError ∧ s.status.ResultsClear
  /-- VALID = CK_OK & FCS_OK & LEN_OK (R147). -/
  valid_eq : s.status.valid = (s.status.ckOk && s.status.fcsOk && s.status.lenOk)
  /-- A result flag is 1 only after a command that completed with ERR = 0 (R15). -/
  error_clear : s.status.err ≠ .noError → s.status.ResultsClear
  /-- MTU_OVF is 1 only after an ENCODE, so never together with a flag of DECODE (R15). -/
  mtuOvf_excludes : s.status.mtuOvf = true →
    s.status.valid = false ∧ s.status.ckOk = false ∧ s.status.fcsOk = false ∧ s.status.lenOk = false
  /-- CK_OK = 1 says that CK_CALC = CK_STORED (R20). -/
  ckOk_eq : s.status.ckOk = true → s.ckCalc = s.ckStored
  /-- FCS_OK = 1 says that FCS_CALC = FCS_STORED (R21). -/
  fcsOk_eq : s.status.fcsOk = true → s.fcsCalc = s.fcsStored
  /-- While reset is asserted every register holds its reset value (R180). -/
  reset_holds : s.inReset = true → AtReset s

/-- The transactions that break the busy rules when a command is pending: the writes of R191 and the reads of R192. A
transaction that answers SLVERR is none (R190). -/
def Txn.breaksBusyRules (p : Params) : Txn → Bool
  | .read addr size =>
    match target addr with
    | .registers offset => registerAccessLegal offset size && (regAt offset).any Reg.readIsHazard
    | .imem _ => false
    | .omem offset => bufferAccessLegal p.omemBytes offset size
    | .unmapped => false
  | .write addr size _ =>
    match target addr with
    | .registers offset => registerAccessLegal offset size && (regAt offset).any Reg.writeIsHazard
    | .imem offset => bufferAccessLegal p.imemBytes offset size
    | .omem _ => false
    | .unmapped => false

/-! ## The terms the statements use -/

/-- The number of implemented bits of a register, bits [k-1:0] of its row in R12. -/
def Reg.width : Reg → Nat
  | .ctrl => 1
  | .cmd => 32
  | .status => 12
  | .mtu => 16
  | .aOff => 32
  | .aLen => 32
  | .bOff => 32
  | .bLen => 32
  | .result => 16
  | .ckCalc => 16
  | .ckStored => 16
  | .fcsCalc => 16
  | .fcsStored => 16
  | .frameLen => 32
  | .ctOff => 32
  | .ctLen => 32
  | .plOff => 32
  | .plLen => 32
  | .hSmacHi => 32
  | .hSmacLo => 16
  | .hDmacHi => 32
  | .hDmacLo => 16
  | .hEtype => 16
  | .hVer => 4
  | .hTtl => 8
  | .hProto => 8
  | .hSip => 32
  | .hDip => 32
  | .hSport => 16
  | .hDport => 16
  | .hSeq => 32
  | .hAck => 32
  | .hFlags => 8
  | .hApplen => 32

/-- The reserved offsets of the register window, 0x048-0x07C and 0x0C0-0x0FC (R12, R30). -/
def ReservedOffset (o : Nat) : Prop :=
  o % 4 = 0 ∧ (0x48 ≤ o ∧ o ≤ 0x7C ∨ 0xC0 ≤ o ∧ o ≤ 0xFC)

/-- The core moves next: its turn comes first in the schedule, or nothing is left there (R165, R187, log 4). -/
def CoreMovesNext (s : State) : Prop :=
  s.script = [] ∨ s.script.head? = some .core

/-- The plain sum of the big-endian 16-bit words of a byte sequence, an odd last byte padded with zero (R104). -/
def wordSum : List Byte → Nat
  | [] => 0
  | [hi] => hi.toNat * 256
  | hi :: lo :: rest => hi.toNat * 256 + lo.toNat + wordSum rest

/-- A byte sequence with bit `j` of byte `k` flipped (R104, R114, R151). -/
def flipBit (bs : List Byte) (k j : Nat) : List Byte :=
  bs.set k (byteAt bs k ^^^ (1#8 <<< j))

/-- The bytewise XOR of two sequences of the same length (R113). -/
def xorBytes (bs cs : List Byte) : List Byte :=
  List.zipWith (fun b c => b ^^^ c) bs cs

end Sys2Proof.Machine
end

