-- ==== Sys2Proof/Certificates/Slice0/Obligations.lean ====
section
/-! DEFINITION. The statements for the provers. -/

open Sys2Proof Sys2Proof.Machine

/-! ## Reset (70_reset_and_hazards.md section 1) -/

/-- R12's reset column and R180, R182: right after reset every register reads its reset value, nothing is pending and
the interrupt is masked. The buffer sizes of `State.reset` are log 1's. -/
def Obligations.ResetStateHoldsTheResetColumn : Prop :=
  (∀ r : Reg, State.reset.readReg r = if r = .mtu then 0x000005DC#32 else 0#32) ∧
    State.reset.pend = none ∧ State.reset.irq = false ∧ State.reset.inReset = false

/-- R180: asserting reset, and releasing it, puts every register at its reset value, discards a pending command and
lowers irq; while it is asserted a transaction has no effect and answers SLVERR, and no completion step happens. -/
def Obligations.ResetRestoresEveryRegister : Prop :=
  ∀ (s : State) (level : Bool) (rest : List Event),
    (s.script = .reset level :: rest → (level = true ∨ s.inReset = true) →
      ∃ t, step s = .next t ∧ (∀ r : Reg, t.readReg r = if r = .mtu then 0x000005DC#32 else 0#32) ∧
        t.pend = none ∧ t.irq = false ∧ t.inReset = level) ∧
    (∀ x, s.inReset = true → s.script = .txn x :: rest →
      step s = .next { s with script := rest, port := some ⟨0#32, .slverr⟩ }) ∧
    (s.inReset = true → CoreMovesNext s → step s = .next { s with script := s.script.tail })

/-- R181 with the model's choice of log 2: after a reset event every byte of both buffers reads as the free value of
the new reset, whatever was written before. -/
def Obligations.ResetForgetsTheBuffers : Prop :=
  ∀ (s : State) (rest : List Event), s.script = .reset true :: rest →
    ∃ t, step s = .next t ∧ t.epoch = s.epoch + 1 ∧ ∀ i,
      t.imemByte i = Config.unwrittenByte t.epoch .imem i ∧ t.omemByte i = Config.unwrittenByte t.epoch .omem i

/-! ## The register window (10_state.md) -/

/-- R12: the offset column, the 34 numbers of it, and the reserved offsets. -/
def Obligations.RegisterWindowOffsets : Prop :=
  Reg.all.map (fun r => (r, r.offset)) =
    ([
      (.ctrl, 0x000), (.cmd, 0x004), (.status, 0x008), (.mtu, 0x00C), (.aOff, 0x010), (.aLen, 0x014),
      (.bOff, 0x018), (.bLen, 0x01C), (.result, 0x020), (.ckCalc, 0x024), (.ckStored, 0x028),
      (.fcsCalc, 0x02C), (.fcsStored, 0x030), (.frameLen, 0x034), (.ctOff, 0x038), (.ctLen, 0x03C),
      (.plOff, 0x040), (.plLen, 0x044), (.hSmacHi, 0x080), (.hSmacLo, 0x084), (.hDmacHi, 0x088),
      (.hDmacLo, 0x08C), (.hEtype, 0x090), (.hVer, 0x094), (.hTtl, 0x098), (.hProto, 0x09C), (.hSip, 0x0A0),
      (.hDip, 0x0A4), (.hSport, 0x0A8), (.hDport, 0x0AC), (.hSeq, 0x0B0), (.hAck, 0x0B4), (.hFlags, 0x0B8),
      (.hApplen, 0x0BC)] : List (Reg × Nat)) ∧
  (∀ r : Reg, r ∈ Reg.all) ∧
  (∀ r : Reg, regAt r.offset = some r ∧ r.offset % 4 = 0 ∧ r.offset < 0x100) ∧
    ∀ o < 0x100, o % 4 = 0 → (regAt o = none ↔ (0x48 ≤ o ∧ o ≤ 0x7C ∨ 0xC0 ≤ o ∧ o ≤ 0xFC))

/-- R15, R161: the places of the fields in STATUS, bits [31:12] read 0, and the codes of ERR. -/
def Obligations.StatusFieldPositions : Prop :=
  (ErrCode.code .noError = 0#4 ∧ ErrCode.code .illegalCmd = 1#4 ∧ ErrCode.code .range = 2#4 ∧
    ErrCode.code .ctNul = 3#4 ∧ ErrCode.code .overflow = 4#4 ∧ ErrCode.code .malformed = 5#4) ∧
  ∀ t : Status,
    t.word.getLsbD 0 = t.busy ∧ t.word.getLsbD 1 = t.done ∧ t.word.getLsbD 2 = t.valid ∧
    t.word.getLsbD 3 = t.ckOk ∧ t.word.getLsbD 4 = t.fcsOk ∧ t.word.getLsbD 5 = t.lenOk ∧
    t.word.getLsbD 6 = t.mtuOvf ∧ t.word.getLsbD 7 = t.haz ∧ t.word.extractLsb' 8 4 = t.err.code ∧
    t.word.toNat < 2 ^ 12

/-- R14: an idle write to CMD accepts the command, a write while one is pending is a hazard, and a read returns 0 and
has no effect. -/
def Obligations.CommandRegisterStoresNothing : Prop :=
  ∀ (s : State) (w : Word) (rest : List Event), s.inReset = false →
    (s.script = .txn (.read 4#32 .word) :: rest →
      step s = .next { s with script := rest, port := some ⟨0#32, .okay⟩ }) ∧
    (s.script = .txn (.write 4#32 .word w) :: rest → s.pend ≠ none →
      step s = .next { s with
        script := rest
        port := some ⟨0#32, .okay⟩
        status := { s.status with haz := true } }) ∧
    (s.script = .txn (.write 4#32 .word w) :: rest → s.pend = none →
      ∃ t, step s = .next t ∧ t.pend = some (opcodeOf w))

/-- R16: a write of w to STATUS clears DONE if w[1] = 1 and HAZ if w[7] = 1 and changes nothing else, also while a
command is pending. -/
def Obligations.StatusWriteClearsByOnes : Prop :=
  ∀ (s : State) (w : Word) (rest : List Event), s.inReset = false →
    s.script = .txn (.write 8#32 .word w) :: rest →
    step s = .next { s with
      script := rest
      port := some ⟨0#32, .okay⟩
      status := { s.status with
        done := if w.getLsbD 1 then false else s.status.done
        haz := if w.getLsbD 7 then false else s.status.haz } }

/-- 10_state.md section 5 (R29) and R43: an idle write of w to a read-write register stores w mod 2^k, k its
implemented bits; it is the only register that changes, and the buffers and PEND do not. -/
def Obligations.RegisterWriteTruncates : Prop :=
  ∀ (s : State) (r : Reg) (w : Word) (rest : List Event), s.inReset = false → s.pend = none →
    r ≠ .cmd → r ≠ .status → r.isResult = false →
    s.script = .txn (.write (BitVec.ofNat 32 r.offset) .word w) :: rest →
    ∃ t, step s = .next t ∧ t.readReg r = BitVec.ofNat 32 (w.toNat % 2 ^ r.width) ∧
      (∀ r', r' ≠ r → t.readReg r' = s.readReg r') ∧
      t.imem = s.imem ∧ t.omem = s.omem ∧ t.pend = s.pend ∧ t.port = some ⟨0#32, .okay⟩

/-- R30: reserved bits read 0 and ignore writes; the reserved offsets read 0 and ignore writes with OKAY, idle or not;
an idle write to a read-only register is ignored with OKAY, and one while a command is pending sets HAZ too. -/
def Obligations.ReservedBitsAndReadOnlyRegisters : Prop :=
  (∀ (s : State) (r : Reg), (s.readReg r).toNat < 2 ^ r.width) ∧
  (∀ (s : State) (r : Reg) (w w' : Word), w.toNat % 2 ^ r.width = w'.toNat % 2 ^ r.width →
    s.writeReg w r = s.writeReg w' r) ∧
  (∀ (s : State) (o : Nat) (w : Word) (rest : List Event), s.inReset = false → ReservedOffset o →
    s.script = .txn (.read (BitVec.ofNat 32 o) .word) :: rest ∨
      s.script = .txn (.write (BitVec.ofNat 32 o) .word w) :: rest →
    step s = .next { s with script := rest, port := some ⟨0#32, .okay⟩ }) ∧
  (∀ (s : State) (r : Reg) (w : Word) (rest : List Event), s.inReset = false → r.isResult = true →
    s.script = .txn (.write (BitVec.ofNat 32 r.offset) .word w) :: rest →
    step s = .next { s with
      script := rest
      port := some ⟨0#32, .okay⟩
      status := { s.status with haz := s.status.haz || s.pend.isSome } })

/-! ## The host port (20_memory.md) -/

/-- R42: every transaction completes; one that answers SLVERR has no effect and rdata 0; a write answers rdata 0; the
bits of wdata above the access size are ignored. -/
def Obligations.RefusedTransactionHasNoEffect : Prop :=
  (∀ (s : State) (x : Txn) (rest : List Event), s.script = .txn x :: rest →
    ∃ t r, step s = .next t ∧ t.port = some r ∧
      (r.resp = .slverr → r.rdata = 0#32 ∧ t = { s with script := rest, port := some r }) ∧
      (∀ addr size w, x = .write addr size w → r.rdata = 0#32)) ∧
  (∀ (s : State) (addr : Word) (size : Size) (w w' : Word),
    w.toNat % 2 ^ (8 * size.bytes) = w'.toNat % 2 ^ (8 * size.bytes) →
    hostAccess (.write addr size w) s = hostAccess (.write addr size w') s)

/-- R43: a register-window transaction that is not an aligned word answers SLVERR; a legal read, when idle, returns
the register at its offset and a legal write performs its write action. -/
def Obligations.RegisterAccessIsAnAlignedWord : Prop :=
  (∀ (s : State) (a : Nat) (size : Size) (w : Word) (rest : List Event), a < 0x100 →
    (size ≠ .word ∨ a % 4 ≠ 0) →
    s.script = .txn (.read (BitVec.ofNat 32 a) size) :: rest ∨
      s.script = .txn (.write (BitVec.ofNat 32 a) size w) :: rest →
    step s = .next { s with script := rest, port := some ⟨0#32, .slverr⟩ }) ∧
  (∀ (s : State) (r : Reg) (w : Word) (rest : List Event), s.inReset = false → s.pend = none →
    (s.script = .txn (.read (BitVec.ofNat 32 r.offset) .word) :: rest →
      step s = .next { s with script := rest, port := some ⟨s.readReg r, .okay⟩ }) ∧
    (s.script = .txn (.write (BitVec.ofNat 32 r.offset) .word w) :: rest →
      step s = .next { s.writeReg w r with script := rest, port := some ⟨0#32, .okay⟩ }))

/-- R44: which buffer accesses are legal, that a read is big-endian, that an idle IMEM write stores be_n(wdata) and
nothing else, and that every other access answers SLVERR. OMEM is read here when nothing is pending (R192). -/
def Obligations.BufferAccessIsBigEndianAndAligned : Prop :=
  ∀ (s : State) (i : Nat) (size : Size) (w : Word) (rest : List Event), s.inReset = false → i < 0x10000 →
    (i % size.bytes = 0 ∧ i + size.bytes ≤ s.params.imemBytes →
      (s.script = .txn (.read (BitVec.ofNat 32 (0x10000 + i)) size) :: rest →
        step s = .next { s with
          script := rest
          port := some ⟨BitVec.ofNat 32 (match size with
            | .byte => (s.imemByte i).toNat
            | .half => (s.imemByte i).toNat * 256 + (s.imemByte (i + 1)).toNat
            | .word => (((s.imemByte i).toNat * 256 + (s.imemByte (i + 1)).toNat) * 256
                + (s.imemByte (i + 2)).toNat) * 256 + (s.imemByte (i + 3)).toNat), .okay⟩ }) ∧
      (s.pend = none → s.script = .txn (.write (BitVec.ofNat 32 (0x10000 + i)) size w) :: rest →
        ∃ m, step s = .next { s with script := rest, port := some ⟨0#32, .okay⟩, imem := m } ∧
          (∀ k < size.bytes, ({ s with imem := m } : State).imemByte (i + k) =
            BitVec.ofNat 8 (w.toNat >>> (8 * (size.bytes - 1 - k)))) ∧
          (∀ x, (x < i ∨ i + size.bytes ≤ x) →
            ({ s with imem := m } : State).imemByte x = s.imemByte x))) ∧
    (¬(i % size.bytes = 0 ∧ i + size.bytes ≤ s.params.imemBytes) →
      s.script = .txn (.read (BitVec.ofNat 32 (0x10000 + i)) size) :: rest ∨
        s.script = .txn (.write (BitVec.ofNat 32 (0x10000 + i)) size w) :: rest →
      step s = .next { s with script := rest, port := some ⟨0#32, .slverr⟩ }) ∧
    (i % size.bytes = 0 ∧ i + size.bytes ≤ s.params.omemBytes → s.pend = none →
      s.script = .txn (.read (BitVec.ofNat 32 (0x20000 + i)) size) :: rest →
      step s = .next { s with
        script := rest
        port := some ⟨BitVec.ofNat 32 (match size with
          | .byte => (s.omemByte i).toNat
          | .half => (s.omemByte i).toNat * 256 + (s.omemByte (i + 1)).toNat
          | .word => (((s.omemByte i).toNat * 256 + (s.omemByte (i + 1)).toNat) * 256
              + (s.omemByte (i + 2)).toNat) * 256 + (s.omemByte (i + 3)).toNat), .okay⟩ }) ∧
    (¬(i % size.bytes = 0 ∧ i + size.bytes ≤ s.params.omemBytes) →
      s.script = .txn (.read (BitVec.ofNat 32 (0x20000 + i)) size) :: rest ∨
        s.script = .txn (.write (BitVec.ofNat 32 (0x20000 + i)) size w) :: rest →
      step s = .next { s with script := rest, port := some ⟨0#32, .slverr⟩ })

/-- R45 with the map of R41: a transaction to an unmapped address answers SLVERR, has no effect and does not set HAZ.
-/
def Obligations.UnmappedAddressAnswersSlverr : Prop :=
  ∀ (s : State) (a : Word) (size : Size) (w : Word) (rest : List Event),
    (0x100 ≤ a.toNat ∧ a.toNat < 0x10000 ∨
      0x10000 + s.params.imemBytes ≤ a.toNat ∧ a.toNat < 0x20000 ∨
      0x20000 + s.params.omemBytes ≤ a.toNat ∧ a.toNat < 0x30000 ∨ 0x30000 ≤ a.toNat) →
    s.script = .txn (.read a size) :: rest ∨ s.script = .txn (.write a size w) :: rest →
    step s = .next { s with script := rest, port := some ⟨0#32, .slverr⟩ }

/-- R48: a WRITE to the OMEM window answers SLVERR and changes nothing, and no command writes IMEM. -/
def Obligations.BuffersAreOneWay : Prop :=
  (∀ (s : State) (a : Word) (size : Size) (w : Word) (rest : List Event),
    0x20000 ≤ a.toNat → a.toNat < 0x30000 → s.script = .txn (.write a size w) :: rest →
    step s = .next { s with script := rest, port := some ⟨0#32, .slverr⟩ }) ∧
  (∀ (s t : State), CoreMovesNext s → step s = .next t → t.imem = s.imem)

/-! ## Busy rules (70_reset_and_hazards.md section 3) -/

/-- R190: these transactions behave while a command is pending exactly as they do when idle. -/
def Obligations.BusyHarmlessAccessesAsWhenIdle : Prop :=
  ∀ (s : State) (x : Txn), s.pend ≠ none →
    ((∃ w, x = .write 0#32 .word w) ∨ x = .read 0#32 .word ∨ (∃ w, x = .write 8#32 .word w) ∨ x = .read 8#32 .word ∨
      x = .read 4#32 .word ∨
      (∃ o, ReservedOffset o ∧ (x = .read (BitVec.ofNat 32 o) .word ∨ ∃ w, x = .write (BitVec.ofNat 32 o) .word w)) ∨
      (∃ o, o % 4 = 0 ∧ 0x0C ≤ o ∧ o ≤ 0x1C ∧ x = .read (BitVec.ofNat 32 o) .word) ∨
      (∃ a size, 0x10000 ≤ a.toNat ∧ a.toNat < 0x20000 ∧ x = .read a size) ∨
      (hostAccess x { s with pend := none }).2.resp = .slverr) →
    hostAccess x s =
      ({ (hostAccess x { s with pend := none }).1 with pend := s.pend }, (hostAccess x { s with pend := none }).2)

/-- R191: while a command is pending a write to CMD, MTU, a region register, the header bank, a result register or
IMEM is dropped: it sets HAZ, answers OKAY and changes nothing else; so no second command starts. -/
def Obligations.BusyWritesAreDropped : Prop :=
  ∀ (s : State) (a : Nat) (size : Size) (w : Word) (rest : List Event), s.inReset = false → s.pend ≠ none →
    (size = .word ∧ a % 4 = 0 ∧ (a = 0x04 ∨ 0x0C ≤ a ∧ a ≤ 0x44 ∨ 0x80 ≤ a ∧ a ≤ 0xBC) ∨
      0x10000 ≤ a ∧ a < 0x20000 ∧ (a - 0x10000) % size.bytes = 0 ∧ a - 0x10000 + size.bytes ≤ s.params.imemBytes) →
    s.script = .txn (.write (BitVec.ofNat 32 a) size w) :: rest →
    step s = .next { s with
      script := rest
      port := some ⟨0#32, .okay⟩
      status := { s.status with haz := true } }

/-- While a command is pending a read of a result register, a header-bank register or OMEM answers OKAY with an
unspecified value and sets HAZ (70_reset_and_hazards.md section 3). That the value is `Config.hazardRead` of the draw
counter, 32 free bits for a narrow OMEM read too and fresh each time, is the model's choice of log 3. -/
def Obligations.BusyReadsAreUnspecified : Prop :=
  ∀ (s : State) (a : Nat) (size : Size) (rest : List Event), s.inReset = false → s.pend ≠ none →
    (size = .word ∧ a % 4 = 0 ∧ (0x20 ≤ a ∧ a ≤ 0x44 ∨ 0x80 ≤ a ∧ a ≤ 0xBC) ∨
      0x20000 ≤ a ∧ a < 0x30000 ∧ (a - 0x20000) % size.bytes = 0 ∧ a - 0x20000 + size.bytes ≤ s.params.omemBytes) →
    s.script = .txn (.read (BitVec.ofNat 32 a) size) :: rest →
    step s = .next { s with
      script := rest
      port := some ⟨Config.hazardRead s.draws, .okay⟩
      draws := s.draws + 1
      status := { s.status with haz := true } }

/-- 70_reset_and_hazards.md section 3 (R193) and 10_state.md section 6 (R34): only a transaction that breaks the busy
rules while a command is pending sets HAZ. -/
def Obligations.OnlyHazardsSetHaz : Prop :=
  ∀ s t : State, step s = .next t → s.status.haz = false → t.status.haz = true →
    s.pend ≠ none ∧ s.inReset = false ∧
      ∃ x rest, s.script = .txn x :: rest ∧ x.breaksBusyRules s.params = true

/-- 20_memory.md section 5 (R54) and 70_reset_and_hazards.md section 2 (R188): while a command is pending a host
transaction changes CTRL, DONE, HAZ, the port and the draw counter at most. -/
def Obligations.PendingHostAccessLeavesOperands : Prop :=
  ∀ (s : State) (x : Txn) (rest : List Event), s.pend ≠ none → s.script = .txn x :: rest →
    ∃ t, step s = .next t ∧
      t = { s with
        script := rest
        ctrl := t.ctrl
        status := { s.status with done := t.status.done, haz := t.status.haz }
        port := t.port
        draws := t.draws }

/-! ## Acceptance, completion, interrupt -/

/-- R185: acceptance of the word w, for every w; the opcodes are those of R70, every other word is ILLEGAL (R71). -/
def Obligations.AcceptanceOfACommandWord : Prop :=
  ∀ (s : State) (w : Word) (rest : List Event), s.inReset = false → s.pend = none →
    s.script = .txn (.write 4#32 .word w) :: rest →
    ∃ t, step s = .next t ∧ t.irq = false ∧
      t = { s with
        script := rest
        port := some ⟨0#32, .okay⟩
        pend := some
          (if w = 1#32 then .command .cksum
          else if w = 2#32 then .command .crc16
          else if w = 3#32 then .command .encode
          else if w = 4#32 then .command .decode
          else .illegal)
        status := ⟨true, false, false, false, false, false, false, s.status.haz, .noError⟩ }

/-- R186: when the core moves, a pending command has one step, which evaluates the rule of that command and sets BUSY
= 0, DONE = 1, PEND = none; when nothing is pending the core has no step. -/
def Obligations.CompletionStepRunsThePendingCommand : Prop :=
  (∀ s : State, s.inReset = false → CoreMovesNext s →
    (s.pend = none → step s = .next { s with script := s.script.tail }) ∧
    (∀ i, s.pend = some (.command i) → step s = exec i { s with script := s.script.tail }) ∧
    (s.pend = some .illegal → step s = .next { s with
      script := s.script.tail
      pend := none
      status := { s.status with busy := false, done := true, err := .illegalCmd } })) ∧
  (∀ (i : Instr) (s : State), ∃ t, exec i s = .next t ∧
    t.pend = none ∧ t.status.busy = false ∧ t.status.done = true)

/-- A step runs the decoded command (R70, R185, R186): a word that decodes to i, written to CMD when idle and followed
by the core's turn, is completed by exec of i on the state its acceptance left; and the same for a word placed by
`withFetchWord` (log 5). -/
def Obligations.StepRunsTheDecodedCommand : Prop :=
  ∀ (s : State) (w : Word) (i : Instr) (rest : List Event), decodeCommand w = .ok i →
    (s.inReset = false → s.pend = none → s.script = .txn (.write 4#32 .word w) :: .core :: rest →
      ∃ t, step s = .next t ∧ t.pend = some (.command i) ∧ step t = exec i { t with script := rest }) ∧
    step (s.withFetchWord 32 w.toNat) = exec i { s.withFetchWord 32 w.toNat with script := s.script }

/-- R71, R162: every word but the four of R70 is illegal: it is accepted (PEND = ILLEGAL, BUSY = 1) and its completion
sets ERR = 1 and writes nothing else. -/
def Obligations.IllegalWordCompletesWithIllegalCmd : Prop :=
  ∀ (s : State) (w : Word) (rest : List Event), s.inReset = false → s.pend = none →
    (w = 0#32 ∨ 5 ≤ (w.extractLsb' 0 4).toNat ∨ w.extractLsb' 4 28 ≠ 0#28) ∨ (∀ i, w ≠ encode i) →
    s.script = .txn (.write 4#32 .word w) :: .core :: rest →
    ∃ t, step s = .next t ∧ t.pend = some .illegal ∧ t.status.busy = true ∧
      step t = .next { t with
        script := rest
        pend := none
        status := { t.status with busy := false, done := true, err := .illegalCmd } }

/-- R187 (the block never hangs): every step of every state answers a next state. -/
def Obligations.NoStepStops : Prop :=
  ∀ s : State, ∃ t, step s = .next t

/-- R166: a completion raises irq when IE = 1; irq falls only by a STATUS write with bit 1 set, a CTRL write with bit
0 clear, the acceptance of a command or a reset; and it rises only by a completion or by a CTRL write that sets IE
while DONE = 1. -/
def Obligations.IrqFollowsDoneAndIe : Prop :=
  (∀ s : State, s.irq = (s.status.done && s.ctrl.getLsbD 0)) ∧
  (∀ s t : State, s.inReset = false → CoreMovesNext s → s.pend ≠ none → step s = .next t →
    t.irq = s.ctrl.getLsbD 0) ∧
  (∀ s t : State, step s = .next t → s.irq = true → t.irq = false →
    (∃ level rest, s.script = .reset level :: rest ∧ (level = true ∨ s.inReset = true)) ∨
    (∃ w rest, s.script = .txn (.write 8#32 .word w) :: rest ∧ w.getLsbD 1 = true) ∨
    (∃ w rest, s.script = .txn (.write 0#32 .word w) :: rest ∧ w.getLsbD 0 = false) ∨
    (∃ w rest, s.script = .txn (.write 4#32 .word w) :: rest ∧ s.pend = none)) ∧
  (∀ s t : State, step s = .next t → s.irq = false → t.irq = true →
    (CoreMovesNext s ∧ s.pend ≠ none ∧ t.pend = none) ∨
    (∃ w rest, s.script = .txn (.write 0#32 .word w) :: rest ∧ w.getLsbD 0 = true ∧ s.status.done = true))

/-! ## Command words (30_encoding.md section 2) -/

/-- R71: a word is illegal exactly when it is 0, has OP 5 to 15, or has a nonzero bit in [31:4]; every other word is
one of the four of R70. -/
def Obligations.EveryOtherCommandWordIsIllegal : Prop :=
  ∀ w : Word,
    (opcodeOf w = .illegal ↔ w = 0#32 ∨ 5 ≤ (w.extractLsb' 0 4).toNat ∨ w.extractLsb' 4 28 ≠ 0#28) ∧
    (∀ i, decodeCommand w = .ok i ↔ w = encode i)

/-- R70: the four command words. -/
def Obligations.CommandWordsOfTheTable : Prop :=
  decodeCommand 0x00000001#32 = .ok .cksum ∧ decodeCommand 0x00000002#32 = .ok .crc16 ∧
    decodeCommand 0x00000003#32 = .ok .encode ∧ decodeCommand 0x00000004#32 = .ok .decode

/-! ## Byte primitives (40_primitives.md) -/

/-- R90, R91, R92: the bytes of be_N, its truncation, rd_be as a sum, and rd_be of be_N. -/
def Obligations.BigEndianPrimitives : Prop :=
  (∀ n v : Nat, (beBytes n v).length = n ∧
    ∀ k < n, byteAt (beBytes n v) k = BitVec.ofNat 8 ((v >>> (8 * (n - 1 - k))) &&& 0xFF)) ∧
  (∀ n v : Nat, beBytes n v = beBytes n (v % 2 ^ (8 * n))) ∧
  (∀ (bs : List Byte) (i n : Nat), i + n ≤ bs.length →
    rdBe bs i n = ∑ k ∈ Finset.range n, (byteAt bs (i + k)).toNat <<< (8 * (n - 1 - k))) ∧
  (∀ n v : Nat, rdBe (beBytes n v) 0 n = v % 2 ^ (8 * n))

/-! ## Internet checksum (41_checksum.md) -/

/-- R101: CKSUM of a legal region A puts its Internet checksum into RESULT, and otherwise completes with RANGE;
nothing else changes but STATUS and PEND. With it R101's encoding, corner cases and worked example. -/
def Obligations.CksumCompletes : Prop :=
  decodeCommand 0x00000001#32 = .ok .cksum ∧
  (∀ n, inetChecksum (List.replicate n 0x00#8) = 0xFFFF#16) ∧ inetChecksum [0x12#8] = 0xEDFF#16 ∧
  (∀ bs, foldedSum 0 bs = 0xFFFF → inetChecksum bs = 0#16) ∧ inetChecksum [0xFF#8, 0xFF#8] = 0#16 ∧
  inetChecksum [0x00#8, 0x01#8, 0xF2#8, 0x03#8, 0xF4#8, 0xF5#8, 0xF6#8, 0xF7#8] = 0x220D#16 ∧
  ∀ s : State,
    (s.aOff.toNat + s.aLen.toNat ≤ s.params.imemBytes →
      exec .cksum s = .next { s with
        result := inetChecksum (s.memReadImem s.aOff.toNat s.aLen.toNat)
        pend := none
        status := { s.status with busy := false, done := true, err := .noError } }) ∧
    (s.params.imemBytes < s.aOff.toNat + s.aLen.toNat →
      exec .cksum s = .next { s with
        pend := none
        status := { s.status with busy := false, done := true, err := .range } })

/-- R102: one fold per addition is enough; the fold yields 0 only from 0; the checksum is 0xFFFF exactly for all-zero
data and 0x0000 exactly when the folded sum is 0xFFFF. -/
def Obligations.ChecksumFoldAndZeroCases : Prop :=
  (∀ sum w : Nat, sum ≤ 0xFFFF → w ≤ 0xFFFF →
    sum + w ≤ 0x1FFFE ∧ foldCarry (sum + w) ≤ 0xFFFF ∧ (foldCarry (sum + w) = 0 ↔ sum = 0 ∧ w = 0)) ∧
  (∀ bs : List Byte, foldedSum 0 bs ≤ 0xFFFF ∧ (foldedSum 0 bs = 0 ↔ ∀ b ∈ bs, b = 0#8) ∧
    (inetChecksum bs = 0xFFFF#16 ↔ ∀ b ∈ bs, b = 0#8) ∧
    (inetChecksum bs = 0#16 ↔ foldedSum 0 bs = 0xFFFF))

/-- R104: the folded sum is the plain sum of the words modulo 0xFFFF, the checksum does not depend on the order of the
words, and every single-bit change changes it. -/
def Obligations.ChecksumDetectsEverySingleBitFlip : Prop :=
  (∀ bs : List Byte, foldedSum 0 bs % 0xFFFF = wordSum bs % 0xFFFF) ∧
  (∀ ws vs : List (Byte × Byte), ws.Perm vs →
    inetChecksum (ws.flatMap fun w => [w.1, w.2]) = inetChecksum (vs.flatMap fun w => [w.1, w.2])) ∧
  (∀ (bs : List Byte) (k j : Nat), k < bs.length → j < 8 → inetChecksum (flipBit bs k j) ≠ inetChecksum bs)

/-! ## CRC-16 (42_crc16.md) -/

/-- R111: CRC16 of a legal region A puts its CRC-16 into RESULT, and otherwise completes with RANGE; nothing else
changes but STATUS and PEND. With it R111's encoding, corner cases and worked example. -/
def Obligations.Crc16Completes : Prop :=
  decodeCommand 0x00000002#32 = .ok .crc16 ∧
  crc16 [] = 0xFFFF#16 ∧ crc16 [0x00#8] = 0xE1F0#16 ∧ crc16 [0xFF#8, 0xFF#8] = 0#16 ∧
  crc16 [0x31#8, 0x32#8, 0x33#8, 0x34#8, 0x35#8, 0x36#8, 0x37#8, 0x38#8, 0x39#8] = 0x29B1#16 ∧
  ∀ s : State,
    (s.aOff.toNat + s.aLen.toNat ≤ s.params.imemBytes →
      exec .crc16 s = .next { s with
        result := crc16 (s.memReadImem s.aOff.toNat s.aLen.toNat)
        pend := none
        status := { s.status with busy := false, done := true, err := .noError } }) ∧
    (s.params.imemBytes < s.aOff.toNat + s.aLen.toNat →
      exec .crc16 s = .next { s with
        pend := none
        status := { s.status with busy := false, done := true, err := .range } })

/-- R113: the CRC of nothing is 0xFFFF, and the CRC is affine. -/
def Obligations.CrcIsAffine : Prop :=
  crc16 [] = 0xFFFF#16 ∧
  ∀ bs cs : List Byte, bs.length = cs.length → crc16 bs ^^^ crc16 cs = crcFrom 0#16 (xorBytes bs cs)

/-- R114: every single-bit change of the input changes the CRC. -/
def Obligations.CrcDetectsEverySingleBitFlip : Prop :=
  ∀ (bs : List Byte) (k j : Nat), k < bs.length → j < 8 → crc16 (flipBit bs k j) ≠ crc16 bs

/-! ## ENCODE (43_encode.md) -/

/-- R126, R127: when both regions are legal, the contentType holds no 0x00 and the frame fits OMEM, ENCODE completes
with the frame LINK ‖ fcs ‖ NET ‖ TRANS ‖ APP ‖ payload at OMEM offset 0, RESULT = FCS_CALC = FCS_STORED = fcs,
CK_CALC = CK_STORED = ck, FRAME_LEN = L and MTU_OVF = (L - 16 > MTU); nothing else changes but STATUS and PEND. -/
def Obligations.EncodeCompletes : Prop :=
  ∀ s : State, s.aOff.toNat + s.aLen.toNat ≤ s.params.imemBytes →
    s.bOff.toNat + s.bLen.toNat ≤ s.params.imemBytes →
    (∀ k < s.aLen.toNat, s.imemByte (s.aOff.toNat + k) ≠ 0#8) →
    47 + s.aLen.toNat + s.bLen.toNat ≤ s.params.omemBytes →
    ∀ (ct pl body : List Byte) (ck fcs : Half) (len : Nat),
    ct = s.memReadImem s.aOff.toNat s.aLen.toNat → pl = s.memReadImem s.bOff.toNat s.bLen.toNat →
    ck = inetChecksum (s.hdr.pseudo ++ pl) → body = s.hdr.net ++ s.hdr.trans ck ++ s.hdr.app ct ++ pl →
    fcs = crc16 (s.hdr.link ++ body) → len = 47 + s.aLen.toNat + s.bLen.toNat →
    exec .encode s = .next { s with
      omem := Memory.setBytes s.omem 0 (s.hdr.link ++ beBytes 2 fcs.toNat ++ body)
      frameLen := BitVec.ofNat 32 len
      ckCalc := ck
      ckStored := ck
      fcsCalc := fcs
      fcsStored := fcs
      result := fcs
      pend := none
      status := { s.status with
        busy := false
        done := true
        err := .noError
        mtuOvf := decide (len - 16 > s.mtu.toNat) } }

/-- R130, R131, in the order of R164: the two regions are checked first, then the contentType for a 0x00 byte, then
the size; on RANGE and CT_NUL nothing but STATUS and PEND changes, on OVERFLOW FRAME_LEN takes the length too. -/
def Obligations.EncodeRefusesInOrder : Prop :=
  ∀ s : State,
    (s.params.imemBytes < s.aOff.toNat + s.aLen.toNat ∨ s.params.imemBytes < s.bOff.toNat + s.bLen.toNat →
      exec .encode s = .next { s with
        pend := none
        status := { s.status with busy := false, done := true, err := .range } }) ∧
    (s.aOff.toNat + s.aLen.toNat ≤ s.params.imemBytes → s.bOff.toNat + s.bLen.toNat ≤ s.params.imemBytes →
      ((∃ k < s.aLen.toNat, s.imemByte (s.aOff.toNat + k) = 0#8) →
        exec .encode s = .next { s with
          pend := none
          status := { s.status with busy := false, done := true, err := .ctNul } }) ∧
      ((∀ k < s.aLen.toNat, s.imemByte (s.aOff.toNat + k) ≠ 0#8) →
        s.params.omemBytes < 47 + s.aLen.toNat + s.bLen.toNat →
        exec .encode s = .next { s with
          frameLen := BitVec.ofNat 32 (47 + s.aLen.toNat + s.bLen.toNat)
          pend := none
          status := { s.status with busy := false, done := true, err := .overflow } }))

/-- R64, R65 and the ENCODE half of R62: after an ENCODE that completes with ERR = 0 every field stands in OMEM at its
offset, big-endian, with its header-bank register's value; the bytes from the frame's end on are unchanged (R47). -/
def Obligations.EncodedFrameLayout : Prop :=
  ∀ s t : State, exec .encode s = .next t → t.status.err = .noError →
    ∀ (c p : Nat) (rd : Nat → Nat → Nat), c = s.aLen.toNat → p = s.bLen.toNat →
    (rd = fun o n => beValue (readBytes t.omemByte o n)) →
    rd 0 4 = s.hdr.smacHi.toNat ∧ rd 4 2 = s.hdr.smacLo.toNat ∧ rd 6 4 = s.hdr.dmacHi.toNat ∧
    rd 10 2 = s.hdr.dmacLo.toNat ∧ rd 12 2 = s.hdr.etype.toNat ∧ rd 14 2 = t.fcsCalc.toNat ∧
    rd 16 1 = s.hdr.ver.toNat * 16 ∧ rd 17 1 = s.hdr.ttl.toNat ∧ rd 18 1 = s.hdr.proto.toNat ∧
    rd 19 4 = s.hdr.sip.toNat ∧ rd 23 4 = s.hdr.dip.toNat ∧ rd 27 2 = s.hdr.sport.toNat ∧
    rd 29 2 = s.hdr.dport.toNat ∧ rd 31 4 = s.hdr.seqNum.toNat ∧ rd 35 4 = s.hdr.ackNum.toNat ∧
    rd 39 1 = s.hdr.flags.toNat % 8 ∧ rd 40 2 = t.ckCalc.toNat ∧
    (∀ k < c, t.omemByte (42 + k) = s.imemByte (s.aOff.toNat + k) ∧ t.omemByte (42 + k) ≠ 0#8) ∧
    t.omemByte (42 + c) = 0#8 ∧ rd (43 + c) 4 = s.hdr.appLen.toNat ∧
    (∀ k < p, t.omemByte (47 + c + k) = s.imemByte (s.bOff.toNat + k)) ∧
    (∀ x, 47 + c + p ≤ x → t.omemByte x = s.omemByte x)

/-- R67, R68: in the frame ENCODE leaves in OMEM, the checksum field is the Internet checksum of the pseudo-header
(frame bytes 27 to 39 and a zero byte) and the payload, and the FCS field is the CRC of every byte but the FCS slot.
-/
def Obligations.EncodedFrameIntegrity : Prop :=
  ∀ s t : State, exec .encode s = .next t → t.status.err = .noError →
    beValue (readBytes t.omemByte 40 2) =
      (inetChecksum (readBytes t.omemByte 27 13 ++ [0x00#8] ++
        readBytes t.omemByte (47 + s.aLen.toNat) s.bLen.toNat)).toNat ∧
    beValue (readBytes t.omemByte 14 2) =
      (crc16 (readBytes t.omemByte 0 14 ++
        readBytes t.omemByte 16 (31 + s.aLen.toNat + s.bLen.toNat))).toNat

/-- R132: the frame, the checksum and the FCS are functions of the header bank and the bytes of regions A and B alone;
MTU affects only MTU_OVF. -/
def Obligations.EncodeIsDeterministic : Prop :=
  (∀ (s t t' : State) (m : Half), exec .encode s = .next t → exec .encode { s with mtu := m } = .next t' →
    t' = { t with mtu := m, status := { t.status with mtuOvf := t'.status.mtuOvf } }) ∧
  ∀ s s' t t' : State, s.hdr = s'.hdr → s.regionA = s'.regionA → s.regionB = s'.regionB →
    exec .encode s = .next t → exec .encode s' = .next t' →
    t.status.err = .noError → t'.status.err = .noError →
    t.result = t'.result ∧ t.ckCalc = t'.ckCalc ∧ t.ckStored = t'.ckStored ∧ t.fcsCalc = t'.fcsCalc ∧
      t.fcsStored = t'.fcsStored ∧ t.frameLen = t'.frameLen ∧
      (∀ x < 47 + s.aLen.toNat + s.bLen.toNat, t.omemByte x = t'.omemByte x)

/-! ## DECODE (44_decode.md) -/

/-- R145, R146, R147: a DECODE of a frame that is not malformed, q being the first 0x00 at offset 42 or later,
completes with every field, both recomputed values, both stored ones, the positions of contentType and payload, and
the validity flags; nothing else changes but FRAME_LEN, STATUS and PEND. -/
def Obligations.DecodeCompletes : Prop :=
  ∀ (s : State) (q : Nat), s.aOff.toNat + s.aLen.toNat ≤ s.params.imemBytes →
    42 ≤ q → q + 5 ≤ s.aLen.toNat → s.imemByte (s.aOff.toNat + q) = 0#8 →
    (∀ k, 42 ≤ k → k < q → s.imemByte (s.aOff.toNat + k) ≠ 0#8) →
    ∀ (rd : Nat → Nat → Nat) (ck fcs : Half) (ckOk fcsOk lenOk : Bool),
    (rd = fun o n => beValue (readBytes s.imemByte (s.aOff.toNat + o) n)) →
    ck = inetChecksum (readBytes s.imemByte (s.aOff.toNat + 27) 13 ++ [0x00#8] ++
      readBytes s.imemByte (s.aOff.toNat + (q + 5)) (s.aLen.toNat - (q + 5))) →
    fcs = crc16 (readBytes s.imemByte s.aOff.toNat 14 ++
      readBytes s.imemByte (s.aOff.toNat + 16) (s.aLen.toNat - 16)) →
    ckOk = decide (ck.toNat = rd 40 2) → fcsOk = decide (fcs.toNat = rd 14 2) →
    lenOk = decide (rd (q + 1) 4 = s.aLen.toNat - (q + 5)) →
    exec .decode s = .next { s with
      hdr := {
        smacHi := BitVec.ofNat 32 (rd 0 4)
        smacLo := BitVec.ofNat 16 (rd 4 2)
        dmacHi := BitVec.ofNat 32 (rd 6 4)
        dmacLo := BitVec.ofNat 16 (rd 10 2)
        etype := BitVec.ofNat 16 (rd 12 2)
        ver := BitVec.ofNat 4 (rd 16 1 / 16)
        ttl := BitVec.ofNat 8 (rd 17 1)
        proto := BitVec.ofNat 8 (rd 18 1)
        sip := BitVec.ofNat 32 (rd 19 4)
        dip := BitVec.ofNat 32 (rd 23 4)
        sport := BitVec.ofNat 16 (rd 27 2)
        dport := BitVec.ofNat 16 (rd 29 2)
        seqNum := BitVec.ofNat 32 (rd 31 4)
        ackNum := BitVec.ofNat 32 (rd 35 4)
        flags := BitVec.ofNat 8 (rd 39 1)
        appLen := BitVec.ofNat 32 (rd (q + 1) 4) }
      ckCalc := ck
      ckStored := BitVec.ofNat 16 (rd 40 2)
      fcsCalc := fcs
      fcsStored := BitVec.ofNat 16 (rd 14 2)
      frameLen := s.aLen
      ctOff := BitVec.ofNat 32 (s.aOff.toNat + 42)
      ctLen := BitVec.ofNat 32 (q - 42)
      plOff := BitVec.ofNat 32 (s.aOff.toNat + q + 5)
      plLen := BitVec.ofNat 32 (s.aLen.toNat - (q + 5))
      pend := none
      status := { s.status with
        busy := false
        done := true
        err := .noError
        ckOk := ckOk
        fcsOk := fcsOk
        lenOk := lenOk
        valid := ckOk && fcsOk && lenOk } }

/-- R143, R144: a frame shorter than 42 bytes, of 42 to 46 bytes, without a 0x00 from offset 42 on, or whose first
such byte leaves fewer than 4 bytes after it is malformed: the header bank and the decode outputs are zeroed,
FRAME_LEN holds N, ERR = 5, and the result flags stay 0 as acceptance left them. -/
def Obligations.DecodeMalformed : Prop :=
  ∀ s : State, s.aOff.toNat + s.aLen.toNat ≤ s.params.imemBytes →
    (s.aLen.toNat < 42 ∨ (42 ≤ s.aLen.toNat ∧ s.aLen.toNat ≤ 46) ∨
      (∀ k, 42 ≤ k → k < s.aLen.toNat → s.imemByte (s.aOff.toNat + k) ≠ 0#8) ∨
      (∃ q, 42 ≤ q ∧ q < s.aLen.toNat ∧ s.imemByte (s.aOff.toNat + q) = 0#8 ∧
        (∀ k, 42 ≤ k → k < q → s.imemByte (s.aOff.toNat + k) ≠ 0#8) ∧ s.aLen.toNat < q + 5)) →
    ∃ t, exec .decode s = .next t ∧ (s.status.ResultsClear → t.status.ResultsClear) ∧
      t = { s with
        hdr := ⟨0#32, 0#16, 0#32, 0#16, 0#16, 0#4, 0#8, 0#8, 0#32, 0#32, 0#16, 0#16, 0#32, 0#32, 0#8, 0#32⟩
        ckCalc := 0#16
        ckStored := 0#16
        fcsCalc := 0#16
        fcsStored := 0#16
        frameLen := s.aLen
        ctOff := 0#32
        ctLen := 0#32
        plOff := 0#32
        plLen := 0#32
        pend := none
        status := { s.status with busy := false, done := true, err := .malformed } }

/-- R149: the registers of a DECODE with ERR = 0 locate the contentType and the payload in IMEM: the contentType
starts 42 bytes into the frame, holds no 0x00 and ends at the terminator, and the payload is every byte from 5 after
it to the end of the frame; IMEM is not changed. -/
def Obligations.DecodeLocatesContentTypeAndPayload : Prop :=
  ∀ s t : State, s.params.wf = true → exec .decode s = .next t → t.status.err = .noError →
    t.imem = s.imem ∧ t.ctOff.toNat = s.aOff.toNat + 42 ∧
    (∀ k < t.ctLen.toNat, t.imemByte (t.ctOff.toNat + k) ≠ 0#8) ∧
    t.imemByte (t.ctOff.toNat + t.ctLen.toNat) = 0#8 ∧
    t.plOff.toNat = t.ctOff.toNat + t.ctLen.toNat + 5 ∧
    t.plOff.toNat + t.plLen.toNat = s.aOff.toNat + s.aLen.toNat

/-- R150, round trip: the frame of an ENCODE that completed with ERR = 0 and H_APPLEN = |payload|, copied to IMEM at
A_OFF, decodes with ERR = 0 and CK_OK = FCS_OK = LEN_OK = VALID = 1, to the same header bank but for H_FLAGS, which is
H_FLAGS & 0x07, and to the same contentType and payload bytes. -/
def Obligations.EncodeThenDecodeRoundTrips : Prop :=
  ∀ s t u : State, exec .encode s = .next t → t.status.err = .noError → s.params.wf = true →
    s.hdr.appLen.toNat = s.bLen.toNat →
    u.params.wf = true → u.aLen = t.frameLen → u.aOff.toNat + u.aLen.toNat ≤ u.params.imemBytes →
    (∀ k < t.frameLen.toNat, u.imemByte (u.aOff.toNat + k) = t.omemByte k) →
    ∃ v, exec .decode u = .next v ∧ v.status.err = .noError ∧
      v.status.ckOk = true ∧ v.status.fcsOk = true ∧ v.status.lenOk = true ∧ v.status.valid = true ∧
      v.hdr = { s.hdr with flags := s.hdr.flags &&& 0x07#8 } ∧
      v.ctLen = s.aLen ∧ (∀ k < s.aLen.toNat, v.imemByte (v.ctOff.toNat + k) = s.imemByte (s.aOff.toNat + k)) ∧
      v.plLen = s.bLen ∧ (∀ k < s.bLen.toNat, v.imemByte (v.plOff.toNat + k) = s.imemByte (s.bOff.toNat + k))

/-- R152: when ENCODE ran with H_APPLEN /= B_LEN, decoding its frame gives CK_OK = FCS_OK = 1, LEN_OK = VALID = 0. -/
def Obligations.WrongDeclaredLengthIsInvalid : Prop :=
  ∀ s t u : State, exec .encode s = .next t → t.status.err = .noError → s.params.wf = true →
    s.hdr.appLen.toNat ≠ s.bLen.toNat →
    u.params.wf = true → u.aLen = t.frameLen → u.aOff.toNat + u.aLen.toNat ≤ u.params.imemBytes →
    (∀ k < t.frameLen.toNat, u.imemByte (u.aOff.toNat + k) = t.omemByte k) →
    ∃ v, exec .decode u = .next v ∧ v.status.err = .noError ∧
      v.status.ckOk = true ∧ v.status.fcsOk = true ∧ v.status.lenOk = false ∧ v.status.valid = false

/-- 44_decode.md section 3 (R151): flipping any one bit of a frame whose FCS matches makes FCS_OK = 0 and VALID = 0,
provided the flipped frame is not malformed. -/
def Obligations.FrameBitFlipBreaksFcs : Prop :=
  ∀ (s s' t t' : State) (k j : Nat), k < s.aLen.toNat → j < 8 → s'.regionA = flipBit s.regionA k j →
    exec .decode s = .next t → t.status.err = .noError → t.status.fcsOk = true →
    exec .decode s' = .next t' → t'.status.err = .noError →
    t'.status.fcsOk = false ∧ t'.status.valid = false

/-- 44_decode.md section 3 (R151): flipping one bit of the payload, or of frame offsets 27 to 39 or 40 to 41 (the
stored checksum), of a frame whose checksum matches leaves it well formed and makes CK_OK = 0 and VALID = 0. -/
def Obligations.ChecksummedBitFlipBreaksChecksum : Prop :=
  ∀ (s s' t t' : State) (k j : Nat), s.params.wf = true → k < s.aLen.toNat → j < 8 →
    s'.regionA = flipBit s.regionA k j → s'.regionALegal = true →
    exec .decode s = .next t → t.status.err = .noError → t.status.ckOk = true →
    (27 ≤ k ∧ k < 42 ∨ t.plOff.toNat ≤ s.aOff.toNat + k) →
    exec .decode s' = .next t' →
    t'.status.err = .noError ∧ t'.status.ckOk = false ∧ t'.status.valid = false

/-! ## Errors and frames (60_exceptions.md) -/

/-- R164: the code each command reports, the first condition met in its pseudocode order; an illegal word runs no
command and reports ILLEGAL_CMD. -/
def Obligations.ErrorCodeOfEveryCommand : Prop :=
  (∀ s t : State, s.inReset = false → CoreMovesNext s → s.pend = some .illegal → step s = .next t →
    t.status.err = .illegalCmd ∧ t = { s with script := s.script.tail, status := t.status, pend := none }) ∧
  ∀ (s t : State) (i : Instr), exec i s = .next t →
    (t.status.err = .range ↔
      s.params.imemBytes < s.aOff.toNat + s.aLen.toNat ∨
        i = .encode ∧ s.params.imemBytes < s.bOff.toNat + s.bLen.toNat) ∧
    (t.status.err = .ctNul ↔ i = .encode ∧ s.regionALegal = true ∧ s.regionBLegal = true ∧
      ∃ k < s.aLen.toNat, s.imemByte (s.aOff.toNat + k) = 0#8) ∧
    (t.status.err = .overflow ↔ i = .encode ∧ s.regionALegal = true ∧ s.regionBLegal = true ∧
      (∀ k < s.aLen.toNat, s.imemByte (s.aOff.toNat + k) ≠ 0#8) ∧
      s.params.omemBytes < 47 + s.aLen.toNat + s.bLen.toNat) ∧
    (t.status.err = .malformed ↔ i = .decode ∧ s.regionALegal = true ∧
      ¬∃ q, 42 ≤ q ∧ q + 5 ≤ s.aLen.toNat ∧ s.imemByte (s.aOff.toNat + q) = 0#8 ∧
        ∀ k, 42 ≤ k → k < q → s.imemByte (s.aOff.toNat + k) ≠ 0#8) ∧
    t.status.err ≠ .illegalCmd

/-- R160: on an error a command writes STATUS.ERR, DONE, BUSY and PEND and, of everything else, only what its rule
lists: FRAME_LEN for OVERFLOW, FRAME_LEN and the zeroed decode outputs for MALFORMED. -/
def Obligations.ErrorsWriteOnlyWhatTheRuleLists : Prop :=
  ∀ (s t : State) (i : Instr), exec i s = .next t → t.status.err ≠ .noError →
    t.status = { s.status with busy := false, done := true, err := t.status.err } ∧ t.pend = none ∧
    t = { s with
      status := t.status
      pend := none
      frameLen := if t.status.err = .overflow ∨ t.status.err = .malformed then t.frameLen else s.frameLen
      hdr := if t.status.err = .malformed then HeaderBank.zero else s.hdr
      ckCalc := if t.status.err = .malformed then 0#16 else s.ckCalc
      ckStored := if t.status.err = .malformed then 0#16 else s.ckStored
      fcsCalc := if t.status.err = .malformed then 0#16 else s.fcsCalc
      fcsStored := if t.status.err = .malformed then 0#16 else s.fcsStored
      ctOff := if t.status.err = .malformed then 0#32 else s.ctOff
      ctLen := if t.status.err = .malformed then 0#32 else s.ctLen
      plOff := if t.status.err = .malformed then 0#32 else s.plOff
      plLen := if t.status.err = .malformed then 0#32 else s.plLen }

/-- The frame of the four commands (60_exceptions.md section 1, 92_eei_decisions.md D22): what each leaves unchanged
whenever it completes. -/
def Obligations.CommandsChangeOnlyWhatTheyName : Prop :=
  ∀ (s t : State) (i : Instr), exec i s = .next t →
    (t.params = s.params ∧ t.ctrl = s.ctrl ∧ t.mtu = s.mtu ∧ t.aOff = s.aOff ∧ t.aLen = s.aLen ∧ t.bOff = s.bOff ∧
      t.bLen = s.bLen ∧ t.imem = s.imem ∧ t.inReset = s.inReset ∧ t.script = s.script ∧ t.port = s.port ∧
      t.epoch = s.epoch ∧ t.draws = s.draws ∧ t.status.haz = s.status.haz ∧ ∀ x, t.imemByte x = s.imemByte x) ∧
    (i = .decode → t.result = s.result) ∧
    (i ≠ .encode → t.omem = s.omem ∧ (∀ x, t.omemByte x = s.omemByte x) ∧ t.status.mtuOvf = s.status.mtuOvf) ∧
    (i = .encode → ∀ x, 47 + s.aLen.toNat + s.bLen.toNat ≤ x → t.omemByte x = s.omemByte x) ∧
    (i ≠ .decode → t.hdr = s.hdr ∧ t.ctOff = s.ctOff ∧ t.ctLen = s.ctLen ∧ t.plOff = s.plOff ∧ t.plLen = s.plLen ∧
      t.status.valid = s.status.valid ∧ t.status.ckOk = s.status.ckOk ∧ t.status.fcsOk = s.status.fcsOk ∧
      t.status.lenOk = s.status.lenOk) ∧
    (i = .cksum ∨ i = .crc16 → t.ckCalc = s.ckCalc ∧ t.ckStored = s.ckStored ∧ t.fcsCalc = s.fcsCalc ∧
      t.fcsStored = s.fcsStored ∧ t.frameLen = s.frameLen)

/-- 00_scope.md section 5 (R7): no result of a command depends on an earlier command except through the operands: two
states that agree on the parameters, the region registers, MTU, the header bank and the bytes of IMEM report the same
code and, on success, the same results. -/
def Obligations.ResultsDependOnOperandsAlone : Prop :=
  ∀ (s s' t t' : State) (i : Instr), s.params = s'.params → s.aOff = s'.aOff → s.aLen = s'.aLen →
    s.bOff = s'.bOff → s.bLen = s'.bLen → s.mtu = s'.mtu → s.hdr = s'.hdr →
    (∀ x, s.imemByte x = s'.imemByte x) → exec i s = .next t → exec i s' = .next t' →
    t.status.err = t'.status.err ∧
    (t.status.err = .noError →
      (i ≠ .decode → t.result = t'.result) ∧
      (i = .encode ∨ i = .decode → t.ckCalc = t'.ckCalc ∧ t.ckStored = t'.ckStored ∧ t.fcsCalc = t'.fcsCalc ∧
        t.fcsStored = t'.fcsStored ∧ t.frameLen = t'.frameLen) ∧
      (i = .encode → t.status.mtuOvf = t'.status.mtuOvf ∧ ∀ x < t.frameLen.toNat, t.omemByte x = t'.omemByte x) ∧
      (i = .decode → t.hdr = t'.hdr ∧ t.ctOff = t'.ctOff ∧ t.ctLen = t'.ctLen ∧ t.plOff = t'.plOff ∧
        t.plLen = t'.plLen ∧ t.status.valid = t'.status.valid ∧ t.status.ckOk = t'.status.ckOk ∧
        t.status.fcsOk = t'.status.fcsOk ∧ t.status.lenOk = t'.status.lenOk))

/-! ## The whole machine -/

/-- The invariant of `Machine.Invariant` holds right after reset (buffer sizes: log 1). -/
def Obligations.InvariantHoldsAtReset : Prop :=
  Invariant State.reset

/-- Every step keeps the invariant of `Machine.Invariant`: canonical buffers inside their sizes, BUSY = (PEND /= none)
(R32), the result flags as R15, R20, R21 and R147 say, and every register at its reset value while reset is asserted
(R180). -/
def Obligations.EveryStepKeepsTheInvariant : Prop :=
  ∀ s t : State, Invariant s → step s = .next t → Invariant t

/-- 20_memory.md section 5 (R54) and 70_reset_and_hazards.md section 2 (R187, R188): whatever the host does meanwhile,
unless reset intervenes a pending one of the four commands completes within the schedule (log 4), still pending and with its acceptance
operands until then, and its completion leaves what evaluating the command at acceptance would leave, but for CTRL,
HAZ and the model's own port, script and draw counter. -/
def Obligations.PendingCommandCompletesOnItsAcceptanceOperands : Prop :=
  ∀ (s : State) (i : Instr), s.pend = some (.command i) → s.inReset = false →
    (∀ level, Event.reset level ∉ s.script) →
    ∃ (n : Nat) (u v w : State), n ≤ s.script.length ∧
      Host.Core.run Sys2Proof.core n s = .next u ∧ u.pend = some (.command i) ∧ CoreMovesNext u ∧
      step u = .next v ∧ exec i s = .next w ∧
      v = { w with
        ctrl := v.ctrl
        status := { w.status with haz := v.status.haz }
        port := v.port
        script := v.script
        draws := v.draws }

/-- A pending ILLEGAL word completes too (R162, R187, and log 4 for the schedule): whatever the host does meanwhile,
unless reset intervenes it completes within the schedule, still pending until then, and its completion sets BUSY = 0,
DONE = 1, ERR = ILLEGAL_CMD and PEND = none; apart from them only CTRL, HAZ and the model's own port, script and draw
counter may differ from the state at acceptance. -/
def Obligations.PendingIllegalWordCompletes : Prop :=
  ∀ s : State, s.pend = some .illegal → s.inReset = false → (∀ level, Event.reset level ∉ s.script) →
    ∃ (n : Nat) (u v : State), n ≤ s.script.length ∧
      Host.Core.run Sys2Proof.core n s = .next u ∧ u.pend = some .illegal ∧ CoreMovesNext u ∧ step u = .next v ∧
      v = { s with
        ctrl := v.ctrl
        pend := none
        status := { s.status with busy := false, done := true, err := .illegalCmd, haz := v.status.haz }
        port := v.port
        script := v.script
        draws := v.draws }

/-! ## The register window, field by field (10_state.md section 2, 20_memory.md section 2) -/

/-- What the host reads at each offset when no command is pending: the zero-extended field of the register R12 puts
there, STATUS as its word, CMD as 0; the read changes nothing else. -/
def Obligations.HostReadShowsTheRegisterAtEachOffset : Prop :=
  ∀ (s : State) (rest : List Event) (shows : Nat → Word → Prop), s.inReset = false → s.pend = none →
    (shows = fun o v => s.script = .txn (.read (BitVec.ofNat 32 o) .word) :: rest →
      step s = .next { s with script := rest, port := some ⟨v, .okay⟩ }) →
    shows 0x000 (s.ctrl.setWidth 32) ∧ shows 0x004 0#32 ∧ shows 0x008 s.status.word ∧
    shows 0x00C (s.mtu.setWidth 32) ∧ shows 0x010 s.aOff ∧ shows 0x014 s.aLen ∧ shows 0x018 s.bOff ∧
    shows 0x01C s.bLen ∧ shows 0x020 (s.result.setWidth 32) ∧ shows 0x024 (s.ckCalc.setWidth 32) ∧
    shows 0x028 (s.ckStored.setWidth 32) ∧ shows 0x02C (s.fcsCalc.setWidth 32) ∧
    shows 0x030 (s.fcsStored.setWidth 32) ∧ shows 0x034 s.frameLen ∧ shows 0x038 s.ctOff ∧
    shows 0x03C s.ctLen ∧ shows 0x040 s.plOff ∧ shows 0x044 s.plLen ∧ shows 0x080 s.hdr.smacHi ∧
    shows 0x084 (s.hdr.smacLo.setWidth 32) ∧ shows 0x088 s.hdr.dmacHi ∧
    shows 0x08C (s.hdr.dmacLo.setWidth 32) ∧ shows 0x090 (s.hdr.etype.setWidth 32) ∧
    shows 0x094 (s.hdr.ver.setWidth 32) ∧ shows 0x098 (s.hdr.ttl.setWidth 32) ∧
    shows 0x09C (s.hdr.proto.setWidth 32) ∧ shows 0x0A0 s.hdr.sip ∧ shows 0x0A4 s.hdr.dip ∧
    shows 0x0A8 (s.hdr.sport.setWidth 32) ∧ shows 0x0AC (s.hdr.dport.setWidth 32) ∧ shows 0x0B0 s.hdr.seqNum ∧
    shows 0x0B4 s.hdr.ackNum ∧ shows 0x0B8 (s.hdr.flags.setWidth 32) ∧ shows 0x0BC s.hdr.appLen

/-- What a host write of w leaves at each offset when no command is pending: the field of the read-write register R12
puts there takes the low bits of w, a result register keeps its value, and nothing else changes. CMD and STATUS have
statements of their own. -/
def Obligations.HostWriteReachesTheRegisterAtEachOffset : Prop :=
  ∀ (s : State) (w : Word) (rest : List Event) (leaves : Nat → State → Prop), s.inReset = false → s.pend = none →
    (leaves = fun o t => s.script = .txn (.write (BitVec.ofNat 32 o) .word w) :: rest →
      step s = .next { t with script := rest, port := some ⟨0#32, .okay⟩ }) →
    leaves 0x000 { s with ctrl := w.setWidth 1 } ∧ leaves 0x00C { s with mtu := w.setWidth 16 } ∧
    leaves 0x010 { s with aOff := w } ∧ leaves 0x014 { s with aLen := w } ∧ leaves 0x018 { s with bOff := w } ∧
    leaves 0x01C { s with bLen := w } ∧ leaves 0x020 s ∧ leaves 0x024 s ∧ leaves 0x028 s ∧ leaves 0x02C s ∧
    leaves 0x030 s ∧ leaves 0x034 s ∧ leaves 0x038 s ∧ leaves 0x03C s ∧ leaves 0x040 s ∧ leaves 0x044 s ∧
    leaves 0x080 { s with hdr := { s.hdr with smacHi := w } } ∧
    leaves 0x084 { s with hdr := { s.hdr with smacLo := w.setWidth 16 } } ∧
    leaves 0x088 { s with hdr := { s.hdr with dmacHi := w } } ∧
    leaves 0x08C { s with hdr := { s.hdr with dmacLo := w.setWidth 16 } } ∧
    leaves 0x090 { s with hdr := { s.hdr with etype := w.setWidth 16 } } ∧
    leaves 0x094 { s with hdr := { s.hdr with ver := w.setWidth 4 } } ∧
    leaves 0x098 { s with hdr := { s.hdr with ttl := w.setWidth 8 } } ∧
    leaves 0x09C { s with hdr := { s.hdr with proto := w.setWidth 8 } } ∧
    leaves 0x0A0 { s with hdr := { s.hdr with sip := w } } ∧
    leaves 0x0A4 { s with hdr := { s.hdr with dip := w } } ∧
    leaves 0x0A8 { s with hdr := { s.hdr with sport := w.setWidth 16 } } ∧
    leaves 0x0AC { s with hdr := { s.hdr with dport := w.setWidth 16 } } ∧
    leaves 0x0B0 { s with hdr := { s.hdr with seqNum := w } } ∧
    leaves 0x0B4 { s with hdr := { s.hdr with ackNum := w } } ∧
    leaves 0x0B8 { s with hdr := { s.hdr with flags := w.setWidth 8 } } ∧
    leaves 0x0BC { s with hdr := { s.hdr with appLen := w } }
end

