-- ==== Sys2Proof/Laws/State.lean ====
section
/-! SUPPORT. The small lemmas of the record updates: one per field per named update, so that no later proof unfolds
one. -/

namespace Sys2Proof.Machine

/-! ## Acceptance (R185) -/

@[simp] theorem acceptCommand_params (w : Word) (s : State) : (acceptCommand w s).params = s.params := rfl
@[simp] theorem acceptCommand_ctrl (w : Word) (s : State) : (acceptCommand w s).ctrl = s.ctrl := rfl
@[simp] theorem acceptCommand_status (w : Word) (s : State) : (acceptCommand w s).status = s.status.onAccept := rfl
@[simp] theorem acceptCommand_mtu (w : Word) (s : State) : (acceptCommand w s).mtu = s.mtu := rfl
@[simp] theorem acceptCommand_aOff (w : Word) (s : State) : (acceptCommand w s).aOff = s.aOff := rfl
@[simp] theorem acceptCommand_aLen (w : Word) (s : State) : (acceptCommand w s).aLen = s.aLen := rfl
@[simp] theorem acceptCommand_bOff (w : Word) (s : State) : (acceptCommand w s).bOff = s.bOff := rfl
@[simp] theorem acceptCommand_bLen (w : Word) (s : State) : (acceptCommand w s).bLen = s.bLen := rfl
@[simp] theorem acceptCommand_result (w : Word) (s : State) : (acceptCommand w s).result = s.result := rfl
@[simp] theorem acceptCommand_ckCalc (w : Word) (s : State) : (acceptCommand w s).ckCalc = s.ckCalc := rfl
@[simp] theorem acceptCommand_ckStored (w : Word) (s : State) : (acceptCommand w s).ckStored = s.ckStored := rfl
@[simp] theorem acceptCommand_fcsCalc (w : Word) (s : State) : (acceptCommand w s).fcsCalc = s.fcsCalc := rfl
@[simp] theorem acceptCommand_fcsStored (w : Word) (s : State) : (acceptCommand w s).fcsStored = s.fcsStored := rfl
@[simp] theorem acceptCommand_frameLen (w : Word) (s : State) : (acceptCommand w s).frameLen = s.frameLen := rfl
@[simp] theorem acceptCommand_ctOff (w : Word) (s : State) : (acceptCommand w s).ctOff = s.ctOff := rfl
@[simp] theorem acceptCommand_ctLen (w : Word) (s : State) : (acceptCommand w s).ctLen = s.ctLen := rfl
@[simp] theorem acceptCommand_plOff (w : Word) (s : State) : (acceptCommand w s).plOff = s.plOff := rfl
@[simp] theorem acceptCommand_plLen (w : Word) (s : State) : (acceptCommand w s).plLen = s.plLen := rfl
@[simp] theorem acceptCommand_hdr (w : Word) (s : State) : (acceptCommand w s).hdr = s.hdr := rfl
@[simp] theorem acceptCommand_imem (w : Word) (s : State) : (acceptCommand w s).imem = s.imem := rfl
@[simp] theorem acceptCommand_omem (w : Word) (s : State) : (acceptCommand w s).omem = s.omem := rfl
@[simp] theorem acceptCommand_pend (w : Word) (s : State) : (acceptCommand w s).pend = some (opcodeOf w) := rfl
@[simp] theorem acceptCommand_inReset (w : Word) (s : State) : (acceptCommand w s).inReset = s.inReset := rfl
@[simp] theorem acceptCommand_script (w : Word) (s : State) : (acceptCommand w s).script = s.script := rfl
@[simp] theorem acceptCommand_port (w : Word) (s : State) : (acceptCommand w s).port = s.port := rfl
@[simp] theorem acceptCommand_epoch (w : Word) (s : State) : (acceptCommand w s).epoch = s.epoch := rfl
@[simp] theorem acceptCommand_draws (w : Word) (s : State) : (acceptCommand w s).draws = s.draws := rfl

/-! ## Completion (R186) -/

@[simp] theorem complete_params (c : ErrCode) (s : State) : (complete c s).params = s.params := rfl
@[simp] theorem complete_ctrl (c : ErrCode) (s : State) : (complete c s).ctrl = s.ctrl := rfl
@[simp] theorem complete_status (c : ErrCode) (s : State) : (complete c s).status = s.status.onComplete c := rfl
@[simp] theorem complete_mtu (c : ErrCode) (s : State) : (complete c s).mtu = s.mtu := rfl
@[simp] theorem complete_aOff (c : ErrCode) (s : State) : (complete c s).aOff = s.aOff := rfl
@[simp] theorem complete_aLen (c : ErrCode) (s : State) : (complete c s).aLen = s.aLen := rfl
@[simp] theorem complete_bOff (c : ErrCode) (s : State) : (complete c s).bOff = s.bOff := rfl
@[simp] theorem complete_bLen (c : ErrCode) (s : State) : (complete c s).bLen = s.bLen := rfl
@[simp] theorem complete_result (c : ErrCode) (s : State) : (complete c s).result = s.result := rfl
@[simp] theorem complete_ckCalc (c : ErrCode) (s : State) : (complete c s).ckCalc = s.ckCalc := rfl
@[simp] theorem complete_ckStored (c : ErrCode) (s : State) : (complete c s).ckStored = s.ckStored := rfl
@[simp] theorem complete_fcsCalc (c : ErrCode) (s : State) : (complete c s).fcsCalc = s.fcsCalc := rfl
@[simp] theorem complete_fcsStored (c : ErrCode) (s : State) : (complete c s).fcsStored = s.fcsStored := rfl
@[simp] theorem complete_frameLen (c : ErrCode) (s : State) : (complete c s).frameLen = s.frameLen := rfl
@[simp] theorem complete_ctOff (c : ErrCode) (s : State) : (complete c s).ctOff = s.ctOff := rfl
@[simp] theorem complete_ctLen (c : ErrCode) (s : State) : (complete c s).ctLen = s.ctLen := rfl
@[simp] theorem complete_plOff (c : ErrCode) (s : State) : (complete c s).plOff = s.plOff := rfl
@[simp] theorem complete_plLen (c : ErrCode) (s : State) : (complete c s).plLen = s.plLen := rfl
@[simp] theorem complete_hdr (c : ErrCode) (s : State) : (complete c s).hdr = s.hdr := rfl
@[simp] theorem complete_imem (c : ErrCode) (s : State) : (complete c s).imem = s.imem := rfl
@[simp] theorem complete_omem (c : ErrCode) (s : State) : (complete c s).omem = s.omem := rfl
@[simp] theorem complete_pend (c : ErrCode) (s : State) : (complete c s).pend = none := rfl
@[simp] theorem complete_inReset (c : ErrCode) (s : State) : (complete c s).inReset = s.inReset := rfl
@[simp] theorem complete_script (c : ErrCode) (s : State) : (complete c s).script = s.script := rfl
@[simp] theorem complete_port (c : ErrCode) (s : State) : (complete c s).port = s.port := rfl
@[simp] theorem complete_epoch (c : ErrCode) (s : State) : (complete c s).epoch = s.epoch := rfl
@[simp] theorem complete_draws (c : ErrCode) (s : State) : (complete c s).draws = s.draws := rfl

/-! ## Hazard (R191) -/

@[simp] theorem setHazard_params (s : State) : (setHazard s).params = s.params := rfl
@[simp] theorem setHazard_ctrl (s : State) : (setHazard s).ctrl = s.ctrl := rfl
@[simp] theorem setHazard_status (s : State) : (setHazard s).status = s.status.withHazard := rfl
@[simp] theorem setHazard_mtu (s : State) : (setHazard s).mtu = s.mtu := rfl
@[simp] theorem setHazard_aOff (s : State) : (setHazard s).aOff = s.aOff := rfl
@[simp] theorem setHazard_aLen (s : State) : (setHazard s).aLen = s.aLen := rfl
@[simp] theorem setHazard_bOff (s : State) : (setHazard s).bOff = s.bOff := rfl
@[simp] theorem setHazard_bLen (s : State) : (setHazard s).bLen = s.bLen := rfl
@[simp] theorem setHazard_result (s : State) : (setHazard s).result = s.result := rfl
@[simp] theorem setHazard_ckCalc (s : State) : (setHazard s).ckCalc = s.ckCalc := rfl
@[simp] theorem setHazard_ckStored (s : State) : (setHazard s).ckStored = s.ckStored := rfl
@[simp] theorem setHazard_fcsCalc (s : State) : (setHazard s).fcsCalc = s.fcsCalc := rfl
@[simp] theorem setHazard_fcsStored (s : State) : (setHazard s).fcsStored = s.fcsStored := rfl
@[simp] theorem setHazard_frameLen (s : State) : (setHazard s).frameLen = s.frameLen := rfl
@[simp] theorem setHazard_ctOff (s : State) : (setHazard s).ctOff = s.ctOff := rfl
@[simp] theorem setHazard_ctLen (s : State) : (setHazard s).ctLen = s.ctLen := rfl
@[simp] theorem setHazard_plOff (s : State) : (setHazard s).plOff = s.plOff := rfl
@[simp] theorem setHazard_plLen (s : State) : (setHazard s).plLen = s.plLen := rfl
@[simp] theorem setHazard_hdr (s : State) : (setHazard s).hdr = s.hdr := rfl
@[simp] theorem setHazard_imem (s : State) : (setHazard s).imem = s.imem := rfl
@[simp] theorem setHazard_omem (s : State) : (setHazard s).omem = s.omem := rfl
@[simp] theorem setHazard_pend (s : State) : (setHazard s).pend = s.pend := rfl
@[simp] theorem setHazard_inReset (s : State) : (setHazard s).inReset = s.inReset := rfl
@[simp] theorem setHazard_script (s : State) : (setHazard s).script = s.script := rfl
@[simp] theorem setHazard_port (s : State) : (setHazard s).port = s.port := rfl
@[simp] theorem setHazard_epoch (s : State) : (setHazard s).epoch = s.epoch := rfl
@[simp] theorem setHazard_draws (s : State) : (setHazard s).draws = s.draws := rfl

/-! ## Writing OMEM (R47) -/

@[simp] theorem memWriteOmem_params (a : Nat) (bs : List Byte) (s : State) :
    (s.memWriteOmem a bs).params = s.params := rfl
@[simp] theorem memWriteOmem_ctrl (a : Nat) (bs : List Byte) (s : State) : (s.memWriteOmem a bs).ctrl = s.ctrl := rfl
@[simp] theorem memWriteOmem_status (a : Nat) (bs : List Byte) (s : State) :
    (s.memWriteOmem a bs).status = s.status := rfl
@[simp] theorem memWriteOmem_mtu (a : Nat) (bs : List Byte) (s : State) : (s.memWriteOmem a bs).mtu = s.mtu := rfl
@[simp] theorem memWriteOmem_aOff (a : Nat) (bs : List Byte) (s : State) : (s.memWriteOmem a bs).aOff = s.aOff := rfl
@[simp] theorem memWriteOmem_aLen (a : Nat) (bs : List Byte) (s : State) : (s.memWriteOmem a bs).aLen = s.aLen := rfl
@[simp] theorem memWriteOmem_bOff (a : Nat) (bs : List Byte) (s : State) : (s.memWriteOmem a bs).bOff = s.bOff := rfl
@[simp] theorem memWriteOmem_bLen (a : Nat) (bs : List Byte) (s : State) : (s.memWriteOmem a bs).bLen = s.bLen := rfl
@[simp] theorem memWriteOmem_result (a : Nat) (bs : List Byte) (s : State) :
    (s.memWriteOmem a bs).result = s.result := rfl
@[simp] theorem memWriteOmem_ckCalc (a : Nat) (bs : List Byte) (s : State) :
    (s.memWriteOmem a bs).ckCalc = s.ckCalc := rfl
@[simp] theorem memWriteOmem_ckStored (a : Nat) (bs : List Byte) (s : State) :
    (s.memWriteOmem a bs).ckStored = s.ckStored := rfl
@[simp] theorem memWriteOmem_fcsCalc (a : Nat) (bs : List Byte) (s : State) :
    (s.memWriteOmem a bs).fcsCalc = s.fcsCalc := rfl
@[simp] theorem memWriteOmem_fcsStored (a : Nat) (bs : List Byte) (s : State) :
    (s.memWriteOmem a bs).fcsStored = s.fcsStored := rfl
@[simp] theorem memWriteOmem_frameLen (a : Nat) (bs : List Byte) (s : State) :
    (s.memWriteOmem a bs).frameLen = s.frameLen := rfl
@[simp] theorem memWriteOmem_ctOff (a : Nat) (bs : List Byte) (s : State) :
    (s.memWriteOmem a bs).ctOff = s.ctOff := rfl
@[simp] theorem memWriteOmem_ctLen (a : Nat) (bs : List Byte) (s : State) :
    (s.memWriteOmem a bs).ctLen = s.ctLen := rfl
@[simp] theorem memWriteOmem_plOff (a : Nat) (bs : List Byte) (s : State) :
    (s.memWriteOmem a bs).plOff = s.plOff := rfl
@[simp] theorem memWriteOmem_plLen (a : Nat) (bs : List Byte) (s : State) :
    (s.memWriteOmem a bs).plLen = s.plLen := rfl
@[simp] theorem memWriteOmem_hdr (a : Nat) (bs : List Byte) (s : State) : (s.memWriteOmem a bs).hdr = s.hdr := rfl
@[simp] theorem memWriteOmem_imem (a : Nat) (bs : List Byte) (s : State) : (s.memWriteOmem a bs).imem = s.imem := rfl
@[simp] theorem memWriteOmem_omem (a : Nat) (bs : List Byte) (s : State) :
    (s.memWriteOmem a bs).omem = Memory.setBytes s.omem a bs := rfl
@[simp] theorem memWriteOmem_pend (a : Nat) (bs : List Byte) (s : State) : (s.memWriteOmem a bs).pend = s.pend := rfl
@[simp] theorem memWriteOmem_inReset (a : Nat) (bs : List Byte) (s : State) :
    (s.memWriteOmem a bs).inReset = s.inReset := rfl
@[simp] theorem memWriteOmem_script (a : Nat) (bs : List Byte) (s : State) :
    (s.memWriteOmem a bs).script = s.script := rfl
@[simp] theorem memWriteOmem_port (a : Nat) (bs : List Byte) (s : State) : (s.memWriteOmem a bs).port = s.port := rfl
@[simp] theorem memWriteOmem_epoch (a : Nat) (bs : List Byte) (s : State) :
    (s.memWriteOmem a bs).epoch = s.epoch := rfl
@[simp] theorem memWriteOmem_draws (a : Nat) (bs : List Byte) (s : State) :
    (s.memWriteOmem a bs).draws = s.draws := rfl

/-! ## The writes of ENCODE (R120) -/

@[simp] theorem writeEncoded_params (s : State) : (writeEncoded s).params = s.params := by
  simp only [writeEncoded, State.memWriteOmem]
@[simp] theorem writeEncoded_ctrl (s : State) : (writeEncoded s).ctrl = s.ctrl := by
  simp only [writeEncoded, State.memWriteOmem]
@[simp] theorem writeEncoded_status (s : State) : (writeEncoded s).status =
    { s.status with mtuOvf := mtuOverflow (frameLength s.aLen.toNat s.bLen.toNat) s.mtu } := by
  simp only [writeEncoded, State.memWriteOmem]
@[simp] theorem writeEncoded_mtu (s : State) : (writeEncoded s).mtu = s.mtu := by
  simp only [writeEncoded, State.memWriteOmem]
@[simp] theorem writeEncoded_aOff (s : State) : (writeEncoded s).aOff = s.aOff := by
  simp only [writeEncoded, State.memWriteOmem]
@[simp] theorem writeEncoded_aLen (s : State) : (writeEncoded s).aLen = s.aLen := by
  simp only [writeEncoded, State.memWriteOmem]
@[simp] theorem writeEncoded_bOff (s : State) : (writeEncoded s).bOff = s.bOff := by
  simp only [writeEncoded, State.memWriteOmem]
@[simp] theorem writeEncoded_bLen (s : State) : (writeEncoded s).bLen = s.bLen := by
  simp only [writeEncoded, State.memWriteOmem]
@[simp] theorem writeEncoded_result (s : State) : (writeEncoded s).result = frameFcs s.hdr s.regionA s.regionB := by
  simp only [writeEncoded, State.memWriteOmem]
@[simp] theorem writeEncoded_ckCalc (s : State) : (writeEncoded s).ckCalc = frameChecksum s.hdr s.regionB := by
  simp only [writeEncoded, State.memWriteOmem]
@[simp] theorem writeEncoded_ckStored (s : State) : (writeEncoded s).ckStored = frameChecksum s.hdr s.regionB := by
  simp only [writeEncoded, State.memWriteOmem]
@[simp] theorem writeEncoded_fcsCalc (s : State) : (writeEncoded s).fcsCalc = frameFcs s.hdr s.regionA s.regionB := by
  simp only [writeEncoded, State.memWriteOmem]
@[simp] theorem writeEncoded_fcsStored (s : State) :
    (writeEncoded s).fcsStored = frameFcs s.hdr s.regionA s.regionB := by
  simp only [writeEncoded, State.memWriteOmem]
@[simp] theorem writeEncoded_frameLen (s : State) :
    (writeEncoded s).frameLen = BitVec.ofNat 32 (frameLength s.aLen.toNat s.bLen.toNat) := by
  simp only [writeEncoded, State.memWriteOmem]
@[simp] theorem writeEncoded_ctOff (s : State) : (writeEncoded s).ctOff = s.ctOff := by
  simp only [writeEncoded, State.memWriteOmem]
@[simp] theorem writeEncoded_ctLen (s : State) : (writeEncoded s).ctLen = s.ctLen := by
  simp only [writeEncoded, State.memWriteOmem]
@[simp] theorem writeEncoded_plOff (s : State) : (writeEncoded s).plOff = s.plOff := by
  simp only [writeEncoded, State.memWriteOmem]
@[simp] theorem writeEncoded_plLen (s : State) : (writeEncoded s).plLen = s.plLen := by
  simp only [writeEncoded, State.memWriteOmem]
@[simp] theorem writeEncoded_hdr (s : State) : (writeEncoded s).hdr = s.hdr := by
  simp only [writeEncoded, State.memWriteOmem]
@[simp] theorem writeEncoded_imem (s : State) : (writeEncoded s).imem = s.imem := by
  simp only [writeEncoded, State.memWriteOmem]
@[simp] theorem writeEncoded_omem (s : State) :
    (writeEncoded s).omem = Memory.setBytes s.omem 0 (encodeFrame s.hdr s.regionA s.regionB) := by
  simp only [writeEncoded, State.memWriteOmem]
@[simp] theorem writeEncoded_pend (s : State) : (writeEncoded s).pend = s.pend := by
  simp only [writeEncoded, State.memWriteOmem]
@[simp] theorem writeEncoded_inReset (s : State) : (writeEncoded s).inReset = s.inReset := by
  simp only [writeEncoded, State.memWriteOmem]
@[simp] theorem writeEncoded_script (s : State) : (writeEncoded s).script = s.script := by
  simp only [writeEncoded, State.memWriteOmem]
@[simp] theorem writeEncoded_port (s : State) : (writeEncoded s).port = s.port := by
  simp only [writeEncoded, State.memWriteOmem]
@[simp] theorem writeEncoded_epoch (s : State) : (writeEncoded s).epoch = s.epoch := by
  simp only [writeEncoded, State.memWriteOmem]
@[simp] theorem writeEncoded_draws (s : State) : (writeEncoded s).draws = s.draws := by
  simp only [writeEncoded, State.memWriteOmem]

/-! ## The writes of DECODE (R140) -/

@[simp] theorem writeDecoded_params (f : List Byte) (q : Nat) (s : State) :
    (writeDecoded f q s).params = s.params := rfl
@[simp] theorem writeDecoded_ctrl (f : List Byte) (q : Nat) (s : State) : (writeDecoded f q s).ctrl = s.ctrl := rfl
@[simp] theorem writeDecoded_status (f : List Byte) (q : Nat) (s : State) : (writeDecoded f q s).status =
    s.status.withValidity (decodedChecksum f q == storedChecksum f) (decodedFcs f == storedFcs f)
      (lengthMatches f q) := rfl
@[simp] theorem writeDecoded_mtu (f : List Byte) (q : Nat) (s : State) : (writeDecoded f q s).mtu = s.mtu := rfl
@[simp] theorem writeDecoded_aOff (f : List Byte) (q : Nat) (s : State) : (writeDecoded f q s).aOff = s.aOff := rfl
@[simp] theorem writeDecoded_aLen (f : List Byte) (q : Nat) (s : State) : (writeDecoded f q s).aLen = s.aLen := rfl
@[simp] theorem writeDecoded_bOff (f : List Byte) (q : Nat) (s : State) : (writeDecoded f q s).bOff = s.bOff := rfl
@[simp] theorem writeDecoded_bLen (f : List Byte) (q : Nat) (s : State) : (writeDecoded f q s).bLen = s.bLen := rfl
@[simp] theorem writeDecoded_result (f : List Byte) (q : Nat) (s : State) :
    (writeDecoded f q s).result = s.result := rfl
@[simp] theorem writeDecoded_ckCalc (f : List Byte) (q : Nat) (s : State) :
    (writeDecoded f q s).ckCalc = decodedChecksum f q := rfl
@[simp] theorem writeDecoded_ckStored (f : List Byte) (q : Nat) (s : State) :
    (writeDecoded f q s).ckStored = storedChecksum f := rfl
@[simp] theorem writeDecoded_fcsCalc (f : List Byte) (q : Nat) (s : State) :
    (writeDecoded f q s).fcsCalc = decodedFcs f := rfl
@[simp] theorem writeDecoded_fcsStored (f : List Byte) (q : Nat) (s : State) :
    (writeDecoded f q s).fcsStored = storedFcs f := rfl
@[simp] theorem writeDecoded_frameLen (f : List Byte) (q : Nat) (s : State) :
    (writeDecoded f q s).frameLen = s.frameLen := rfl
@[simp] theorem writeDecoded_ctOff (f : List Byte) (q : Nat) (s : State) :
    (writeDecoded f q s).ctOff = BitVec.ofNat 32 (s.aOff.toNat + 42) := rfl
@[simp] theorem writeDecoded_ctLen (f : List Byte) (q : Nat) (s : State) :
    (writeDecoded f q s).ctLen = BitVec.ofNat 32 (q - 42) := rfl
@[simp] theorem writeDecoded_plOff (f : List Byte) (q : Nat) (s : State) :
    (writeDecoded f q s).plOff = BitVec.ofNat 32 (s.aOff.toNat + q + 5) := rfl
@[simp] theorem writeDecoded_plLen (f : List Byte) (q : Nat) (s : State) :
    (writeDecoded f q s).plLen = BitVec.ofNat 32 (f.length - (q + 5)) := rfl
@[simp] theorem writeDecoded_hdr (f : List Byte) (q : Nat) (s : State) :
    (writeDecoded f q s).hdr = parseHeader f q := rfl
@[simp] theorem writeDecoded_imem (f : List Byte) (q : Nat) (s : State) : (writeDecoded f q s).imem = s.imem := rfl
@[simp] theorem writeDecoded_omem (f : List Byte) (q : Nat) (s : State) : (writeDecoded f q s).omem = s.omem := rfl
@[simp] theorem writeDecoded_pend (f : List Byte) (q : Nat) (s : State) : (writeDecoded f q s).pend = s.pend := rfl
@[simp] theorem writeDecoded_inReset (f : List Byte) (q : Nat) (s : State) :
    (writeDecoded f q s).inReset = s.inReset := rfl
@[simp] theorem writeDecoded_script (f : List Byte) (q : Nat) (s : State) :
    (writeDecoded f q s).script = s.script := rfl
@[simp] theorem writeDecoded_port (f : List Byte) (q : Nat) (s : State) : (writeDecoded f q s).port = s.port := rfl
@[simp] theorem writeDecoded_epoch (f : List Byte) (q : Nat) (s : State) : (writeDecoded f q s).epoch = s.epoch := rfl
@[simp] theorem writeDecoded_draws (f : List Byte) (q : Nat) (s : State) : (writeDecoded f q s).draws = s.draws := rfl

/-! ## The zeroing of a malformed DECODE (R144) -/

@[simp] theorem writeMalformed_params (s : State) : (writeMalformed s).params = s.params := rfl
@[simp] theorem writeMalformed_ctrl (s : State) : (writeMalformed s).ctrl = s.ctrl := rfl
@[simp] theorem writeMalformed_status (s : State) : (writeMalformed s).status = s.status := rfl
@[simp] theorem writeMalformed_mtu (s : State) : (writeMalformed s).mtu = s.mtu := rfl
@[simp] theorem writeMalformed_aOff (s : State) : (writeMalformed s).aOff = s.aOff := rfl
@[simp] theorem writeMalformed_aLen (s : State) : (writeMalformed s).aLen = s.aLen := rfl
@[simp] theorem writeMalformed_bOff (s : State) : (writeMalformed s).bOff = s.bOff := rfl
@[simp] theorem writeMalformed_bLen (s : State) : (writeMalformed s).bLen = s.bLen := rfl
@[simp] theorem writeMalformed_result (s : State) : (writeMalformed s).result = s.result := rfl
@[simp] theorem writeMalformed_ckCalc (s : State) : (writeMalformed s).ckCalc = 0#16 := rfl
@[simp] theorem writeMalformed_ckStored (s : State) : (writeMalformed s).ckStored = 0#16 := rfl
@[simp] theorem writeMalformed_fcsCalc (s : State) : (writeMalformed s).fcsCalc = 0#16 := rfl
@[simp] theorem writeMalformed_fcsStored (s : State) : (writeMalformed s).fcsStored = 0#16 := rfl
@[simp] theorem writeMalformed_frameLen (s : State) : (writeMalformed s).frameLen = s.frameLen := rfl
@[simp] theorem writeMalformed_ctOff (s : State) : (writeMalformed s).ctOff = 0#32 := rfl
@[simp] theorem writeMalformed_ctLen (s : State) : (writeMalformed s).ctLen = 0#32 := rfl
@[simp] theorem writeMalformed_plOff (s : State) : (writeMalformed s).plOff = 0#32 := rfl
@[simp] theorem writeMalformed_plLen (s : State) : (writeMalformed s).plLen = 0#32 := rfl
@[simp] theorem writeMalformed_hdr (s : State) : (writeMalformed s).hdr = .zero := rfl
@[simp] theorem writeMalformed_imem (s : State) : (writeMalformed s).imem = s.imem := rfl
@[simp] theorem writeMalformed_omem (s : State) : (writeMalformed s).omem = s.omem := rfl
@[simp] theorem writeMalformed_pend (s : State) : (writeMalformed s).pend = s.pend := rfl
@[simp] theorem writeMalformed_inReset (s : State) : (writeMalformed s).inReset = s.inReset := rfl
@[simp] theorem writeMalformed_script (s : State) : (writeMalformed s).script = s.script := rfl
@[simp] theorem writeMalformed_port (s : State) : (writeMalformed s).port = s.port := rfl
@[simp] theorem writeMalformed_epoch (s : State) : (writeMalformed s).epoch = s.epoch := rfl
@[simp] theorem writeMalformed_draws (s : State) : (writeMalformed s).draws = s.draws := rfl

/-! ## Reset (R180) -/

@[simp] theorem resetAll_params (level : Bool) (s : State) : (resetAll level s).params = s.params := rfl
@[simp] theorem resetAll_ctrl (level : Bool) (s : State) :
    (resetAll level s).ctrl = (State.initial s.params).ctrl := rfl
@[simp] theorem resetAll_status (level : Bool) (s : State) :
    (resetAll level s).status = (State.initial s.params).status := rfl
@[simp] theorem resetAll_mtu (level : Bool) (s : State) : (resetAll level s).mtu = (State.initial s.params).mtu := rfl
@[simp] theorem resetAll_aOff (level : Bool) (s : State) :
    (resetAll level s).aOff = (State.initial s.params).aOff := rfl
@[simp] theorem resetAll_aLen (level : Bool) (s : State) :
    (resetAll level s).aLen = (State.initial s.params).aLen := rfl
@[simp] theorem resetAll_bOff (level : Bool) (s : State) :
    (resetAll level s).bOff = (State.initial s.params).bOff := rfl
@[simp] theorem resetAll_bLen (level : Bool) (s : State) :
    (resetAll level s).bLen = (State.initial s.params).bLen := rfl
@[simp] theorem resetAll_result (level : Bool) (s : State) :
    (resetAll level s).result = (State.initial s.params).result := rfl
@[simp] theorem resetAll_ckCalc (level : Bool) (s : State) :
    (resetAll level s).ckCalc = (State.initial s.params).ckCalc := rfl
@[simp] theorem resetAll_ckStored (level : Bool) (s : State) :
    (resetAll level s).ckStored = (State.initial s.params).ckStored := rfl
@[simp] theorem resetAll_fcsCalc (level : Bool) (s : State) :
    (resetAll level s).fcsCalc = (State.initial s.params).fcsCalc := rfl
@[simp] theorem resetAll_fcsStored (level : Bool) (s : State) :
    (resetAll level s).fcsStored = (State.initial s.params).fcsStored := rfl
@[simp] theorem resetAll_frameLen (level : Bool) (s : State) :
    (resetAll level s).frameLen = (State.initial s.params).frameLen := rfl
@[simp] theorem resetAll_ctOff (level : Bool) (s : State) :
    (resetAll level s).ctOff = (State.initial s.params).ctOff := rfl
@[simp] theorem resetAll_ctLen (level : Bool) (s : State) :
    (resetAll level s).ctLen = (State.initial s.params).ctLen := rfl
@[simp] theorem resetAll_plOff (level : Bool) (s : State) :
    (resetAll level s).plOff = (State.initial s.params).plOff := rfl
@[simp] theorem resetAll_plLen (level : Bool) (s : State) :
    (resetAll level s).plLen = (State.initial s.params).plLen := rfl
@[simp] theorem resetAll_hdr (level : Bool) (s : State) : (resetAll level s).hdr = (State.initial s.params).hdr := rfl
@[simp] theorem resetAll_imem (level : Bool) (s : State) :
    (resetAll level s).imem = (State.initial s.params).imem := rfl
@[simp] theorem resetAll_omem (level : Bool) (s : State) :
    (resetAll level s).omem = (State.initial s.params).omem := rfl
@[simp] theorem resetAll_pend (level : Bool) (s : State) :
    (resetAll level s).pend = (State.initial s.params).pend := rfl
@[simp] theorem resetAll_inReset (level : Bool) (s : State) : (resetAll level s).inReset = level := rfl
@[simp] theorem resetAll_script (level : Bool) (s : State) : (resetAll level s).script = s.script := rfl
@[simp] theorem resetAll_port (level : Bool) (s : State) :
    (resetAll level s).port = (State.initial s.params).port := rfl
@[simp] theorem resetAll_epoch (level : Bool) (s : State) : (resetAll level s).epoch = s.epoch + 1 := rfl
@[simp] theorem resetAll_draws (level : Bool) (s : State) : (resetAll level s).draws = s.draws := rfl

/-! ## The updates of STATUS -/

@[simp] theorem Status.onAccept_busy (t : Status) : (t.onAccept).busy = true := rfl
@[simp] theorem Status.onAccept_done (t : Status) : (t.onAccept).done = false := rfl
@[simp] theorem Status.onAccept_valid (t : Status) : (t.onAccept).valid = false := rfl
@[simp] theorem Status.onAccept_ckOk (t : Status) : (t.onAccept).ckOk = false := rfl
@[simp] theorem Status.onAccept_fcsOk (t : Status) : (t.onAccept).fcsOk = false := rfl
@[simp] theorem Status.onAccept_lenOk (t : Status) : (t.onAccept).lenOk = false := rfl
@[simp] theorem Status.onAccept_mtuOvf (t : Status) : (t.onAccept).mtuOvf = false := rfl
@[simp] theorem Status.onAccept_haz (t : Status) : (t.onAccept).haz = t.haz := rfl
@[simp] theorem Status.onAccept_err (t : Status) : (t.onAccept).err = .noError := rfl

@[simp] theorem Status.onComplete_busy (c : ErrCode) (t : Status) : (t.onComplete c).busy = false := rfl
@[simp] theorem Status.onComplete_done (c : ErrCode) (t : Status) : (t.onComplete c).done = true := rfl
@[simp] theorem Status.onComplete_valid (c : ErrCode) (t : Status) : (t.onComplete c).valid = t.valid := rfl
@[simp] theorem Status.onComplete_ckOk (c : ErrCode) (t : Status) : (t.onComplete c).ckOk = t.ckOk := rfl
@[simp] theorem Status.onComplete_fcsOk (c : ErrCode) (t : Status) : (t.onComplete c).fcsOk = t.fcsOk := rfl
@[simp] theorem Status.onComplete_lenOk (c : ErrCode) (t : Status) : (t.onComplete c).lenOk = t.lenOk := rfl
@[simp] theorem Status.onComplete_mtuOvf (c : ErrCode) (t : Status) : (t.onComplete c).mtuOvf = t.mtuOvf := rfl
@[simp] theorem Status.onComplete_haz (c : ErrCode) (t : Status) : (t.onComplete c).haz = t.haz := rfl
@[simp] theorem Status.onComplete_err (c : ErrCode) (t : Status) : (t.onComplete c).err = c := rfl

@[simp] theorem Status.withHazard_busy (t : Status) : (t.withHazard).busy = t.busy := rfl
@[simp] theorem Status.withHazard_done (t : Status) : (t.withHazard).done = t.done := rfl
@[simp] theorem Status.withHazard_valid (t : Status) : (t.withHazard).valid = t.valid := rfl
@[simp] theorem Status.withHazard_ckOk (t : Status) : (t.withHazard).ckOk = t.ckOk := rfl
@[simp] theorem Status.withHazard_fcsOk (t : Status) : (t.withHazard).fcsOk = t.fcsOk := rfl
@[simp] theorem Status.withHazard_lenOk (t : Status) : (t.withHazard).lenOk = t.lenOk := rfl
@[simp] theorem Status.withHazard_mtuOvf (t : Status) : (t.withHazard).mtuOvf = t.mtuOvf := rfl
@[simp] theorem Status.withHazard_haz (t : Status) : (t.withHazard).haz = true := rfl
@[simp] theorem Status.withHazard_err (t : Status) : (t.withHazard).err = t.err := rfl

@[simp] theorem Status.writeOneToClear_busy (w : Word) (t : Status) : (t.writeOneToClear w).busy = t.busy := rfl
@[simp] theorem Status.writeOneToClear_done (w : Word) (t : Status) :
    (t.writeOneToClear w).done = (t.done && !w.getLsbD 1) := rfl
@[simp] theorem Status.writeOneToClear_valid (w : Word) (t : Status) : (t.writeOneToClear w).valid = t.valid := rfl
@[simp] theorem Status.writeOneToClear_ckOk (w : Word) (t : Status) : (t.writeOneToClear w).ckOk = t.ckOk := rfl
@[simp] theorem Status.writeOneToClear_fcsOk (w : Word) (t : Status) : (t.writeOneToClear w).fcsOk = t.fcsOk := rfl
@[simp] theorem Status.writeOneToClear_lenOk (w : Word) (t : Status) : (t.writeOneToClear w).lenOk = t.lenOk := rfl
@[simp] theorem Status.writeOneToClear_mtuOvf (w : Word) (t : Status) : (t.writeOneToClear w).mtuOvf = t.mtuOvf := rfl
@[simp] theorem Status.writeOneToClear_haz (w : Word) (t : Status) :
    (t.writeOneToClear w).haz = (t.haz && !w.getLsbD 7) := rfl
@[simp] theorem Status.writeOneToClear_err (w : Word) (t : Status) : (t.writeOneToClear w).err = t.err := rfl

@[simp] theorem Status.withValidity_busy (ck fcs len : Bool) (t : Status) :
    (t.withValidity ck fcs len).busy = t.busy := rfl
@[simp] theorem Status.withValidity_done (ck fcs len : Bool) (t : Status) :
    (t.withValidity ck fcs len).done = t.done := rfl
@[simp] theorem Status.withValidity_valid (ck fcs len : Bool) (t : Status) :
    (t.withValidity ck fcs len).valid = (ck && fcs && len) := rfl
@[simp] theorem Status.withValidity_ckOk (ck fcs len : Bool) (t : Status) :
    (t.withValidity ck fcs len).ckOk = ck := rfl
@[simp] theorem Status.withValidity_fcsOk (ck fcs len : Bool) (t : Status) :
    (t.withValidity ck fcs len).fcsOk = fcs := rfl
@[simp] theorem Status.withValidity_lenOk (ck fcs len : Bool) (t : Status) :
    (t.withValidity ck fcs len).lenOk = len := rfl
@[simp] theorem Status.withValidity_mtuOvf (ck fcs len : Bool) (t : Status) :
    (t.withValidity ck fcs len).mtuOvf = t.mtuOvf := rfl
@[simp] theorem Status.withValidity_haz (ck fcs len : Bool) (t : Status) :
    (t.withValidity ck fcs len).haz = t.haz := rfl
@[simp] theorem Status.withValidity_err (ck fcs len : Bool) (t : Status) :
    (t.withValidity ck fcs len).err = t.err := rfl

/-! ## The operations that are another name -/

@[simp] theorem raiseError_eq (c : ErrCode) (s : State) : raiseError c s = complete c s := rfl

@[simp] theorem completeIllegal_eq (s : State) : completeIllegal s = complete .illegalCmd s := rfl

theorem acceptCommand_irq (w : Word) (s : State) : (acceptCommand w s).irq = false := by
  simp [State.irq]

theorem complete_irq (c : ErrCode) (s : State) : (complete c s).irq = s.ie := by
  simp [State.irq, State.ie]

theorem resetAll_irq (level : Bool) (s : State) : (resetAll level s).irq = false := by
  simp [State.irq, State.ie, State.initial]

end Sys2Proof.Machine
end

