-- ==== Sys2Proof/Laws/Bytes.lean ====
section
/-! SUPPORT. The laws of the byte primitives (R90 to R93) and of reading a byte sequence. -/

namespace Sys2Proof.Machine

@[simp] theorem beBytes_zero (v : Nat) : beBytes 0 v = [] := rfl

@[simp] theorem beBytes_succ (n v : Nat) :
    beBytes (n + 1) v = BitVec.ofNat 8 (v >>> (8 * n)) :: beBytes n v := rfl

@[simp] theorem beBytes_length (n v : Nat) : (beBytes n v).length = n := by
  induction n with
  | zero => rfl
  | succ n ih => simp [ih]

@[simp] theorem beValue_nil : beValue [] = 0 := rfl

theorem beValue_append_single (bs : List Byte) (b : Byte) :
    beValue (bs ++ [b]) = beValue bs * 256 + b.toNat := by
  simp [beValue, List.foldl_append]

theorem beValue_cons (b : Byte) (bs : List Byte) :
    beValue (b :: bs) = b.toNat * 256 ^ bs.length + beValue bs := by
  induction bs using List.reverseRecOn with
  | nil => simp [beValue]
  | append_singleton bs c ih =>
    rw [← List.cons_append, beValue_append_single, ih, beValue_append_single, List.length_append,
      List.length_singleton, pow_succ]
    ring

@[simp] theorem beValue_single (b : Byte) : beValue [b] = b.toNat := by
  simp [beValue]

theorem beValue_lt (bs : List Byte) : beValue bs < 256 ^ bs.length := by
  induction bs with
  | nil => simp
  | cons b bs ih =>
    rw [beValue_cons, List.length_cons, pow_succ]
    have hb := b.isLt
    nlinarith [Nat.pow_pos (n := bs.length) (show 0 < 256 by norm_num)]

/-! ## Slices and reads -/

@[simp] theorem slice_length (bs : List Byte) (i j : Nat) : (slice bs i j).length = min j bs.length - i := by
  simp [slice]

theorem slice_append_left (as bs : List Byte) {i j : Nat} (h : j ≤ as.length) :
    slice (as ++ bs) i j = slice as i j := by
  simp [slice, List.take_append_of_le_length h]

theorem slice_append_right (as bs : List Byte) {i j : Nat} (h : as.length ≤ i) :
    slice (as ++ bs) i j = slice bs (i - as.length) (j - as.length) := by
  by_cases hj : as.length ≤ j
  · simp only [slice, List.take_append, List.take_of_length_le hj, List.drop_append, List.drop_eq_nil_of_le h,
      List.nil_append]
  · simp only [slice, List.take_append_of_le_length (le_of_not_ge hj)]
    rw [List.drop_eq_nil_of_le (by simp; omega), show j - as.length = 0 by omega]
    simp

/-- A field that starts where `as` ends and is `mid` long. -/
theorem slice_append_mid (as mid bs : List Byte) {i j : Nat} (hi : i = as.length) (hj : j = i + mid.length) :
    slice (as ++ (mid ++ bs)) i j = mid := by
  subst hi hj
  rw [slice_append_right _ _ le_rfl]
  simp [slice]

@[simp] theorem readBytes_length (byte : Nat → Byte) (a n : Nat) : (readBytes byte a n).length = n := by
  simp [readBytes]

@[simp] theorem readBytes_zero (byte : Nat → Byte) (a : Nat) : readBytes byte a 0 = [] := rfl

@[simp] theorem readBytes_getElem (byte : Nat → Byte) (a n k : Nat) (h : k < (readBytes byte a n).length) :
    (readBytes byte a n)[k] = byte (a + k) := by
  simp [readBytes]

theorem readBytes_getElem? (byte : Nat → Byte) (a n k : Nat) :
    (readBytes byte a n)[k]? = if k < n then some (byte (a + k)) else none := by
  split
  · next h => rw [List.getElem?_eq_getElem (by simpa using h)]; simp
  · next h => rw [List.getElem?_eq_none (by simpa using h)]

theorem readBytes_congr {f g : Nat → Byte} {a b n : Nat} (h : ∀ k < n, f (a + k) = g (b + k)) :
    readBytes f a n = readBytes g b n := by
  apply List.ext_getElem (by simp)
  intro k h1 h2
  simpa using h k (by simpa using h1)

/-- A read is a given sequence when each of its bytes is. -/
theorem readBytes_eq {f : Nat → Byte} {a n : Nat} {bs : List Byte} (hl : bs.length = n)
    (h : ∀ k (hk : k < bs.length), f (a + k) = bs[k]) : readBytes f a n = bs := by
  subst hl
  apply List.ext_getElem (by simp)
  intro k h1 h2
  simpa using h k h2

theorem slice_readBytes (f : Nat → Byte) (a n i j : Nat) :
    slice (readBytes f a n) i j = readBytes f (a + i) (min j n - i) := by
  apply List.ext_getElem (by simp)
  intro k h1 h2
  simp [slice, Nat.add_assoc]

theorem drop_readBytes (f : Nat → Byte) (a n i : Nat) :
    (readBytes f a n).drop i = readBytes f (a + i) (n - i) := by
  apply List.ext_getElem (by simp)
  intro k h1 h2
  simp [Nat.add_assoc]

theorem take_readBytes (f : Nat → Byte) (a n i : Nat) :
    (readBytes f a n).take i = readBytes f a (min i n) := by
  apply List.ext_getElem (by simp)
  intro k h1 h2
  simp

theorem byteAt_readBytes (f : Nat → Byte) {a n i : Nat} (h : i < n) : byteAt (readBytes f a n) i = f (a + i) := by
  simp [byteAt, List.getD, h]

/-- `rd_be` of a field wholly inside a read (R92). -/
theorem rdBe_readBytes (f : Nat → Byte) {a n i k : Nat} (h : i + k ≤ n) :
    rdBe (readBytes f a n) i k = beValue (readBytes f (a + i) k) := by
  rw [rdBe, slice_readBytes, show min (i + k) n - i = k by omega]

@[simp] theorem regionA_length (s : State) : s.regionA.length = s.aLen.toNat := by
  simp [State.regionA, State.memReadImem]

@[simp] theorem regionB_length (s : State) : s.regionB.length = s.bLen.toNat := by
  simp [State.regionB, State.memReadImem]

/-! ## Header serializers (R94 to R98) -/

@[simp] theorem HeaderBank.link_length (h : HeaderBank) : h.link.length = 14 := by
  simp [HeaderBank.link]

@[simp] theorem HeaderBank.net_length (h : HeaderBank) : h.net.length = 11 := by
  simp [HeaderBank.net]

@[simp] theorem HeaderBank.transFixed_length (h : HeaderBank) : h.transFixed.length = 13 := by
  simp [HeaderBank.transFixed]

@[simp] theorem HeaderBank.pseudo_length (h : HeaderBank) : h.pseudo.length = 14 := by
  simp [HeaderBank.pseudo]

@[simp] theorem HeaderBank.trans_length (h : HeaderBank) (ck : Half) : (h.trans ck).length = 15 := by
  simp [HeaderBank.trans]

@[simp] theorem HeaderBank.app_length (h : HeaderBank) (ct : List Byte) : (h.app ct).length = ct.length + 5 := by
  simp [HeaderBank.app]

/-- The length of an encoded frame (R63). -/
@[simp] theorem encodeFrame_length (h : HeaderBank) (ct pl : List Byte) :
    (encodeFrame h ct pl).length = frameLength ct.length pl.length := by
  simp [encodeFrame, frameBody, frameLength]
  omega

end Sys2Proof.Machine
end

