-- ==== Sys2Proof/Laws/Memory.lean ====
section
/-! SUPPORT. The laws of the buffers: what a read gives after a write, and that every memory operation keeps the
canonical form. -/

namespace Sys2Proof.Machine

/-! ## Reading after writing -/

@[simp] theorem Memory.get_nil (a : Nat) : Memory.get [] a = none := rfl

theorem Memory.get_set (m : Memory) (a : Nat) (b : Byte) (x : Nat) :
    Memory.get (Memory.set m a b) x = if x = a then some b else Memory.get m x := by
  induction m with
  | nil => simp [Memory.set, Memory.get, @eq_comm _ a x]
  | cons cell rest ih =>
    obtain ⟨k, c⟩ := cell
    simp only [Memory.set]
    split
    · simp [Memory.get, @eq_comm _ a x]
    · split
      · next h =>
        subst h
        simp only [Memory.get, @eq_comm _ a x]
        split <;> rfl
      · next h1 h2 =>
        simp only [Memory.get, ih]
        by_cases hk : k = x
        · subst hk
          simp [Ne.symm h2]
        · simp [hk]

/-- A byte sequence written at `a` is read back, and every other offset reads as before. -/
theorem Memory.get_setBytes (bs : List Byte) (m : Memory) (a x : Nat) :
    Memory.get (Memory.setBytes m a bs) x =
      if a ≤ x ∧ x < a + bs.length then bs[x - a]? else Memory.get m x := by
  induction bs generalizing m a with
  | nil => simp [Memory.setBytes]
  | cons b bs ih =>
    simp only [Memory.setBytes, ih, Memory.get_set, List.length_cons]
    by_cases hx : x = a
    · subst hx; simp
    · by_cases h : a + 1 ≤ x ∧ x < a + 1 + bs.length
      · have h' : a ≤ x ∧ x < a + (bs.length + 1) := by omega
        rw [if_pos h, if_pos h', show x - a = (x - (a + 1)) + 1 by omega, List.getElem?_cons_succ]
      · have h' : ¬(a ≤ x ∧ x < a + (bs.length + 1)) := by omega
        rw [if_neg h, if_neg h', if_neg hx]

theorem Memory.get_setBytes_outside {bs : List Byte} {m : Memory} {a x : Nat} (h : x < a ∨ a + bs.length ≤ x) :
    Memory.get (Memory.setBytes m a bs) x = Memory.get m x := by
  rw [Memory.get_setBytes, if_neg (by omega)]

theorem Memory.get_setBytes_inside {bs : List Byte} {m : Memory} {a k : Nat} (h : k < bs.length) :
    Memory.get (Memory.setBytes m a bs) (a + k) = some bs[k] := by
  rw [Memory.get_setBytes, if_pos (by omega)]
  simp [h]

/-! ## The canonical form -/

/-- The canonical form, as a pairwise order on the listed offsets. -/
theorem Memory.wf_iff (m : Memory) : Memory.wf m = true ↔ (m.map Prod.fst).Pairwise (· < ·) := by
  induction m with
  | nil => simp [Memory.wf]
  | cons cell rest ih =>
    obtain ⟨a, b⟩ := cell
    cases rest with
    | nil => simp [Memory.wf]
    | cons cell' rest =>
      obtain ⟨a', b'⟩ := cell'
      simp only [Memory.wf, Bool.and_eq_true, decide_eq_true_eq, ih, List.map_cons, List.pairwise_cons,
        List.mem_cons, forall_eq_or_imp]
      constructor
      · rintro ⟨h, h2, h3⟩
        exact ⟨⟨h, fun x hx => h.trans (h2 x hx)⟩, h2, h3⟩
      · rintro ⟨⟨h, _⟩, h2⟩
        exact ⟨h, h2⟩

theorem Memory.mem_keys_set (m : Memory) (a : Nat) (b : Byte) (x : Nat) :
    x ∈ (Memory.set m a b).map Prod.fst ↔ x = a ∨ x ∈ m.map Prod.fst := by
  induction m with
  | nil => simp [Memory.set]
  | cons cell rest ih =>
    obtain ⟨k, c⟩ := cell
    simp only [Memory.set]
    split
    · simp
    · split
      · next h => subst h; simp
      · simp only [List.map_cons, List.mem_cons, ih]
        tauto

theorem Memory.wf_set {m : Memory} (h : Memory.wf m = true) (a : Nat) (b : Byte) :
    Memory.wf (Memory.set m a b) = true := by
  rw [Memory.wf_iff] at *
  induction m with
  | nil => simp [Memory.set]
  | cons cell rest ih =>
    obtain ⟨k, c⟩ := cell
    simp only [List.map_cons, List.pairwise_cons] at h
    simp only [Memory.set]
    split
    · next hk =>
      simp only [List.map_cons, List.pairwise_cons, List.mem_cons, forall_eq_or_imp]
      exact ⟨⟨hk, fun x hx => hk.trans (h.1 x hx)⟩, h.1, h.2⟩
    · split
      · next hk =>
        subst hk
        simpa using h
      · next h1 h2 =>
        simp only [List.map_cons, List.pairwise_cons]
        refine ⟨fun x hx => ?_, ih h.2⟩
        rcases (Memory.mem_keys_set rest a b x).1 hx with rfl | hx
        · omega
        · exact h.1 x hx

theorem Memory.wf_setBytes (bs : List Byte) {m : Memory} (h : Memory.wf m = true) (a : Nat) :
    Memory.wf (Memory.setBytes m a bs) = true := by
  induction bs generalizing m a with
  | nil => exact h
  | cons b bs ih => exact ih (Memory.wf_set h a b) (a + 1)

/-! ## Staying inside the buffer -/

theorem Memory.within_iff (size : Nat) (m : Memory) :
    Memory.within size m = true ↔ ∀ x ∈ m.map Prod.fst, x < size := by
  simp [Memory.within]

theorem Memory.within_set {m : Memory} {size a : Nat} (h : Memory.within size m = true) (ha : a < size) (b : Byte) :
    Memory.within size (Memory.set m a b) = true := by
  rw [Memory.within_iff] at *
  intro x hx
  rcases (Memory.mem_keys_set m a b x).1 hx with rfl | hx
  · exact ha
  · exact h x hx

theorem Memory.within_setBytes (bs : List Byte) {m : Memory} {size a : Nat} (h : Memory.within size m = true)
    (ha : a + bs.length ≤ size) : Memory.within size (Memory.setBytes m a bs) = true := by
  induction bs generalizing m a with
  | nil => exact h
  | cons b bs ih =>
    simp only [List.length_cons] at ha
    exact ih (Memory.within_set h (by omega) b) (by omega)

/-! ## Reading bytes of the state -/

theorem State.imemByte_of_get {s : State} {i : Nat} {b : Byte} (h : Memory.get s.imem i = some b) :
    s.imemByte i = b := by
  simp [State.imemByte, h]

theorem State.omemByte_of_get {s : State} {i : Nat} {b : Byte} (h : Memory.get s.omem i = some b) :
    s.omemByte i = b := by
  simp [State.omemByte, h]

/-- OMEM after `MemWrite(OMEM, a, bs)` (R47). -/
theorem omemByte_memWriteOmem (s : State) (a : Nat) (bs : List Byte) (x : Nat) :
    (s.memWriteOmem a bs).omemByte x = if h : a ≤ x ∧ x < a + bs.length then bs[x - a] else s.omemByte x := by
  simp only [State.omemByte, memWriteOmem_omem, memWriteOmem_epoch, Memory.get_setBytes]
  by_cases h : a ≤ x ∧ x < a + bs.length
  · have hx : x - a < bs.length := by omega
    rw [if_pos h, dif_pos h, List.getElem?_eq_getElem hx, Option.getD_some]
  · rw [if_neg h, dif_neg h]

end Sys2Proof.Machine
end

