-- ==== Sys2Proof/Laws/Commands.lean ====
section
/-! SUPPORT. What each command can do, said once: if its meaning answers a next state, one of these cases holds. -/

namespace Sys2Proof.Machine

theorem regionLegal_iff (p : Params) (off len : Word) :
    regionLegal p off len = true ↔ off.toNat + len.toNat ≤ p.imemBytes := by
  simp [regionLegal]

theorem regionALegal_iff (s : State) :
    s.regionALegal = true ↔ s.aOff.toNat + s.aLen.toNat ≤ s.params.imemBytes :=
  regionLegal_iff ..

theorem regionBLegal_iff (s : State) :
    s.regionBLegal = true ↔ s.bOff.toNat + s.bLen.toNat ≤ s.params.imemBytes :=
  regionLegal_iff ..

/-- CKSUM: a RANGE error, or the checksum of region A in RESULT (R101). -/
theorem execCksum_cases {s t : State} (h : execCksum s = .next t) :
    (s.regionALegal = false ∧ t = complete .range s) ∨
      (s.regionALegal = true ∧ t = complete .noError { s with result := inetChecksum s.regionA }) := by
  simp only [execCksum, Host.Outcome.next.injEq, raiseError_eq] at h
  subst h
  split <;> simp_all

/-- CRC16: a RANGE error, or the CRC of region A in RESULT (R111). -/
theorem execCrc16_cases {s t : State} (h : execCrc16 s = .next t) :
    (s.regionALegal = false ∧ t = complete .range s) ∨
      (s.regionALegal = true ∧ t = complete .noError { s with result := crc16 s.regionA }) := by
  simp only [execCrc16, Host.Outcome.next.injEq, raiseError_eq] at h
  subst h
  split <;> simp_all

/-- The frame fits OMEM (R163). -/
def FrameFits (s : State) : Prop :=
  frameLength s.aLen.toNat s.bLen.toNat ≤ s.params.omemBytes

/-- ENCODE: RANGE, CT_NUL, OVERFLOW, or the frame (R120). -/
theorem execEncode_cases {s t : State} (h : execEncode s = .next t) :
    ((s.regionALegal = false ∨ s.regionBLegal = false) ∧ t = complete .range s) ∨
      (s.regionALegal = true ∧ s.regionBLegal = true ∧ 0#8 ∈ s.regionA ∧ t = complete .ctNul s) ∨
      (s.regionALegal = true ∧ s.regionBLegal = true ∧ 0#8 ∉ s.regionA ∧ ¬FrameFits s ∧
        t = complete .overflow
          { s with frameLen := BitVec.ofNat 32 (frameLength s.aLen.toNat s.bLen.toNat) }) ∨
      (s.regionALegal = true ∧ s.regionBLegal = true ∧ 0#8 ∉ s.regionA ∧ FrameFits s ∧
        t = complete .noError (writeEncoded s)) := by
  simp only [execEncode, Host.Outcome.next.injEq, raiseError_eq] at h
  subst h
  unfold FrameFits
  split
  · simp_all
  · split
    · simp_all
    · split
      · simp_all
      · split <;> simp_all

/-- DECODE: RANGE, MALFORMED, or the fields of a frame whose terminator is at `q` (R140). -/
theorem execDecode_cases {s t : State} (h : execDecode s = .next t) :
    (s.regionALegal = false ∧ t = complete .range s) ∨
      (s.regionALegal = true ∧ wellFormedAt s.regionA = none ∧
        t = complete .malformed (writeMalformed { s with frameLen := s.aLen })) ∨
      ∃ q, s.regionALegal = true ∧ wellFormedAt s.regionA = some q ∧
        t = complete .noError (writeDecoded s.regionA q { s with frameLen := s.aLen }) := by
  simp only [execDecode, Host.Outcome.next.injEq, raiseError_eq] at h
  subst h
  split
  · next hl =>
    simp only [decodeFrame, raiseError_eq]
    split
    · next hw => exact .inr (.inl ⟨hl, hw, rfl⟩)
    · next q hw => exact .inr (.inr ⟨q, hl, hw, rfl⟩)
  · next hl => exact .inl ⟨by simpa using hl, rfl⟩

/-- Where the terminator of a frame is (R142). -/
theorem terminator_eq_some_iff (f : List Byte) (q : Nat) :
    terminator f = some q ↔
      42 ≤ q ∧ q < f.length ∧ byteAt f q = 0#8 ∧ ∀ k, 42 ≤ k → k < q → byteAt f k ≠ 0#8 := by
  simp only [terminator, Option.map_eq_some_iff, List.findIdx?_eq_some_iff_getElem, List.length_drop,
    List.getElem_drop, byteAt, List.getD_eq_getElem?_getD]
  constructor
  · rintro ⟨k, ⟨hk, h0, hmin⟩, rfl⟩
    have h0' : f[42 + k]'(by omega) = 0#8 := by simpa using h0
    refine ⟨by omega, by omega, ?_, fun j h1 h2 => ?_⟩
    · rw [Nat.add_comm k 42, List.getElem?_eq_getElem (by omega), Option.getD_some, h0']
    · have := hmin (j - 42) (by omega)
      rw [List.getElem?_eq_getElem (by omega), Option.getD_some]
      have hj : 42 + (j - 42) = j := by omega
      simpa [hj] using this
  · rintro ⟨h1, h2, h3, h4⟩
    refine ⟨q - 42, ⟨by omega, ?_, fun j hj => ?_⟩, by omega⟩
    · rw [List.getElem?_eq_getElem h2, Option.getD_some] at h3
      have hq : 42 + (q - 42) = q := by omega
      simpa [hq] using h3
    · have := h4 (42 + j) (by omega) (by omega)
      rw [List.getElem?_eq_getElem (by omega), Option.getD_some] at this
      simpa using this

/-- When a frame is well formed, and where its terminator is (R143). -/
theorem wellFormedAt_eq_some_iff (f : List Byte) (q : Nat) :
    wellFormedAt f = some q ↔
      42 ≤ q ∧ q + 5 ≤ f.length ∧ byteAt f q = 0#8 ∧ ∀ k, 42 ≤ k → k < q → byteAt f k ≠ 0#8 := by
  unfold wellFormedAt
  split
  · next h => simp only [reduceCtorEq, false_iff]; omega
  · split
    · next h ht =>
      simp only [reduceCtorEq, false_iff]
      rintro ⟨h1, h2, h3, h4⟩
      have := (terminator_eq_some_iff f q).2 ⟨h1, by omega, h3, h4⟩
      rw [ht] at this
      cases this
    · next h q' ht =>
      obtain ⟨h1, h2, h3, h4⟩ := (terminator_eq_some_iff f q').1 ht
      have huniq : ∀ q, 42 ≤ q → byteAt f q = 0#8 → (∀ k, 42 ≤ k → k < q → byteAt f k ≠ 0#8) → q' = q := by
        intro q a b c
        rcases Nat.lt_trichotomy q' q with hlt | heq | hgt
        · exact absurd h3 (c q' h1 hlt)
        · exact heq
        · exact absurd b (h4 q a hgt)
      split
      · next h5 =>
        simp only [reduceCtorEq, false_iff]
        rintro ⟨a, b, c, d⟩
        have := huniq q a c d
        omega
      · next h5 =>
        simp only [Option.some.injEq]
        constructor
        · rintro rfl
          exact ⟨h1, by omega, h3, h4⟩
        · rintro ⟨a, _, c, d⟩
          exact huniq q a c d

/-- Every meaning answers a next state. -/
theorem exec_next (i : Instr) (s : State) : ∃ t, exec i s = .next t := by
  cases i <;> exact ⟨_, rfl⟩

end Sys2Proof.Machine
end

