-- ==== Sys2Proof/Laws/Decode.lean ====
section
/-! SUPPORT. The two fields of a command word are the whole of it (R70). -/

namespace Sys2Proof

theorem commandWord_split (w : Word) : w = upperField w ++ opField w := by
  apply BitVec.eq_of_getLsbD_eq
  intro i hi
  rw [BitVec.getLsbD_append]
  by_cases h : i < 4
  · simp [opField, h]
  · have h4 : 4 + (i - 4) = i := by omega
    have h28 : i - 4 < 28 := by omega
    simp [upperField, h, h4, h28]

@[simp] theorem upperField_append (u : BitVec 28) (v : BitVec 4) : upperField (u ++ v) = u := by
  apply BitVec.eq_of_getLsbD_eq
  intro i hi
  have h := BitVec.getLsbD_append (x := u) (y := v) (i := 4 + i)
  simp only [show ¬(4 + i < 4) by omega, if_false, Nat.add_sub_cancel_left] at h
  simp only [upperField, BitVec.getLsbD_extractLsb', hi, decide_true, Bool.true_and]
  exact h

@[simp] theorem opField_append (u : BitVec 28) (v : BitVec 4) : opField (u ++ v) = v := by
  apply BitVec.eq_of_getLsbD_eq
  intro i hi
  have h := BitVec.getLsbD_append (x := u) (y := v) (i := 0 + i)
  simp only [Nat.zero_add, hi, if_true] at h
  simp only [opField, BitVec.getLsbD_extractLsb', hi, decide_true, Bool.true_and, Nat.zero_add]
  exact h

/-- Two command words are equal when their fields are. -/
theorem commandWord_ext {w w' : Word} (hu : upperField w = upperField w') (ho : opField w = opField w') :
    w = w' := by
  rw [commandWord_split w, commandWord_split w', hu, ho]

@[simp] theorem commandWordOfBits_toNat (w : Word) : commandWordOfBits 32 w.toNat = w := by
  apply BitVec.eq_of_toNat_eq
  have := w.isLt
  simp only [commandWordOfBits, BitVec.toNat_ofNat]
  omega

/-- The opcodes of R70 are 1 to 4. -/
theorem instrOfOp_isSome (op : BitVec 4) : (instrOfOp op).isSome = (1#4 ≤ op && op ≤ 4#4) := by
  revert op
  decide

/-- The check of a command word accepts exactly the words the decoder reads as a command (R70, R71). -/
theorem commandWordLegal_iff (w : Word) : commandWordLegal w = true ↔ ∃ i, decodeCommand w = .ok i := by
  have h : commandWordLegal w = (upperField w == 0#28 && (instrOfOp (opField w)).isSome) := by
    rw [instrOfOp_isSome]
    rfl
  rw [h, decodeCommand]
  by_cases hu : upperField w = 0#28
  · cases hi : instrOfOp (opField w) <;> simp [hu]
  · simp [hu]

end Sys2Proof
end

