-- ==== Sys2Proof/Laws/HostPort.lean ====
section
/-! SUPPORT. What a host transaction can do, said once, and where each address leads. -/

namespace Sys2Proof.Machine

/-! ## The address map (R41) -/

theorem target_registers {a : Nat} (h : a < 0x100) : target (BitVec.ofNat 32 a) = .registers a := by
  simp only [target, BitVec.toNat_ofNat]
  rw [Nat.mod_eq_of_lt (by omega), if_pos h]

theorem target_imem {i : Nat} (h : i < 0x10000) : target (BitVec.ofNat 32 (0x10000 + i)) = .imem i := by
  simp only [target, BitVec.toNat_ofNat]
  rw [Nat.mod_eq_of_lt (by omega), if_neg (by omega), if_neg (by omega), if_pos (by omega),
    Nat.add_sub_cancel_left]

theorem target_omem {i : Nat} (h : i < 0x10000) : target (BitVec.ofNat 32 (0x20000 + i)) = .omem i := by
  simp only [target, BitVec.toNat_ofNat]
  rw [Nat.mod_eq_of_lt (by omega), if_neg (by omega), if_neg (by omega), if_neg (by omega), if_pos (by omega),
    Nat.add_sub_cancel_left]

/-! ## Registers by offset (R12) -/

theorem regAt_offset (r : Reg) : regAt r.offset = some r := by
  cases r <;> rfl

theorem offset_legal (r : Reg) : r.offset < 0x100 ∧ registerAccessLegal r.offset .word = true := by
  cases r <;> decide

theorem hostRead_reg (r : Reg) (s : State) :
    hostRead (BitVec.ofNat 32 r.offset) .word s = readRegister r.offset s := by
  simp only [hostRead, target_registers (offset_legal r).1, (offset_legal r).2, if_true]

theorem hostWrite_reg (r : Reg) (w : Word) (s : State) :
    hostWrite (BitVec.ofNat 32 r.offset) .word w s = (writeRegister r.offset w s, okay 0#32) := by
  simp only [hostWrite, target_registers (offset_legal r).1, (offset_legal r).2, if_true]

/-- A word read of a register, with the hazard of R192. -/
theorem readRegister_reg (r : Reg) (s : State) :
    readRegister r.offset s =
      if s.pend.isSome && r.readIsHazard then hazardRead s else (s, okay (s.readReg r)) := by
  simp only [readRegister, regAt_offset]

/-- A word write of a register, with the hazard of R191. -/
theorem writeRegister_reg (r : Reg) (w : Word) (s : State) :
    writeRegister r.offset w s = if s.pend.isSome && r.writeIsHazard then setHazard s else s.writeReg w r := by
  simp only [writeRegister, regAt_offset]

/-- A word write of a register as a step of the machine. -/
theorem hostTransaction_writeReg (r : Reg) (w : Word) {s : State} (hr : s.inReset = false) :
    hostTransaction (.write (BitVec.ofNat 32 r.offset) .word w) s =
      { (if s.pend.isSome && r.writeIsHazard then setHazard s else s.writeReg w r) with
        port := some (okay 0#32) } := by
  have h : hostAccess (.write (BitVec.ofNat 32 r.offset) .word w) s =
      (if s.pend.isSome && r.writeIsHazard then setHazard s else s.writeReg w r, okay 0#32) := by
    rw [hostAccess, if_neg (by simp [hr])]
    simp only [hostWrite_reg, writeRegister_reg]
  rw [hostTransaction, h]

/-- A word read of a register as a step of the machine. -/
theorem hostTransaction_readReg (r : Reg) {s : State} (hr : s.inReset = false) :
    hostTransaction (.read (BitVec.ofNat 32 r.offset) .word) s =
      if s.pend.isSome && r.readIsHazard then
        { setHazard s with draws := s.draws + 1, port := some (okay (Config.hazardRead s.draws)) }
      else { s with port := some (okay (s.readReg r)) } := by
  have h : hostAccess (.read (BitVec.ofNat 32 r.offset) .word) s =
      if s.pend.isSome && r.readIsHazard then hazardRead s else (s, okay (s.readReg r)) := by
    rw [hostAccess, if_neg (by simp [hr])]
    simp only [hostRead_reg, readRegister_reg]
  rw [hostTransaction, h]
  split <;> rfl

/-! ## What a transaction can do -/

/-- The state after a READ: unchanged, or HAZ set and a draw taken while a command is pending (R50, R192). -/
theorem hostRead_cases (addr : Word) (size : Size) (s : State) :
    (hostRead addr size s).1 = s ∨
      s.pend.isSome = true ∧ Txn.breaksBusyRules s.params (.read addr size) = true ∧
        hostRead addr size s = hazardRead s := by
  unfold hostRead Txn.breaksBusyRules
  split
  · next o ho =>
    split
    · next hl =>
      simp only [readRegister]
      split
      · exact .inl rfl
      · next r hr =>
        split
        · next hp =>
          simp only [Bool.and_eq_true] at hp
          exact .inr ⟨hp.1, by simp [ho, hl, hr, hp.2], rfl⟩
        · exact .inl rfl
    · exact .inl rfl
  · split <;> exact .inl rfl
  · next o ho =>
    split
    · next hl =>
      split
      · next hp => exact .inr ⟨hp, by simp [ho, hl], rfl⟩
      · exact .inl rfl
    · exact .inl rfl
  · exact .inl rfl

/-- The state after a WRITE: unchanged; HAZ set because a command is pending; one register's write action; or bytes of
IMEM stored inside the buffer while nothing is pending. -/
theorem hostWrite_cases (addr : Word) (size : Size) (w : Word) (s : State) :
    (hostWrite addr size w s).1 = s ∨
      (s.pend.isSome = true ∧ Txn.breaksBusyRules s.params (.write addr size w) = true ∧
        (hostWrite addr size w s).1 = setHazard s) ∨
      (∃ r, addr = BitVec.ofNat 32 r.offset ∧ size = .word ∧ (s.pend = none ∨ r.writeIsHazard = false) ∧
        (hostWrite addr size w s).1 = s.writeReg w r) ∨
      ∃ i, s.pend = none ∧ i + size.bytes ≤ s.params.imemBytes ∧
        (hostWrite addr size w s).1 =
          { s with imem := Memory.setBytes s.imem i (beBytes size.bytes w.toNat) } := by
  unfold hostWrite Txn.breaksBusyRules
  split
  · next o ho =>
    split
    · next hl =>
      simp only [writeRegister]
      split
      · exact .inl rfl
      · next r hr =>
        split
        · next hp =>
          simp only [Bool.and_eq_true] at hp
          exact .inr (.inl ⟨hp.1, by simp [ho, hl, hr, hp.2], rfl⟩)
        · next hp =>
          refine .inr (.inr (.inl ⟨r, ?_, ?_, ?_, rfl⟩))
          · have hro : r.offset = o := by
              have := List.find?_some hr
              simpa using this
            have hao : addr.toNat = o := by
              simp only [target] at ho
              split at ho
              · simpa using ho
              · split at ho
                · cases ho
                · split at ho
                  · cases ho
                  · split at ho <;> cases ho
            rw [hro, ← hao, BitVec.ofNat_toNat, BitVec.setWidth_eq]
          · simp only [registerAccessLegal, Bool.and_eq_true, beq_iff_eq] at hl
            exact hl.1
          · cases hpend : s.pend with
            | none => exact .inl rfl
            | some p => simp_all
    · exact .inl rfl
  · next i hi =>
    split
    · next hl =>
      simp only [writeImem]
      split
      · next hp => exact .inr (.inl ⟨hp, by simp [hi, hl], rfl⟩)
      · next hp =>
        refine .inr (.inr (.inr ⟨i, by simpa using hp, ?_, rfl⟩))
        simp only [bufferAccessLegal, Bool.and_eq_true, decide_eq_true_eq] at hl
        exact hl.2
    · exact .inl rfl
  · exact .inl rfl
  · exact .inl rfl

/-- The state after a transaction, up to the response on the port. -/
theorem hostAccess_cases (x : Txn) (s : State) :
    (hostAccess x s).1 = s ∨
      (s.inReset = false ∧ s.pend.isSome = true ∧ x.breaksBusyRules s.params = true ∧
        (hostAccess x s = hazardRead s ∨ (hostAccess x s).1 = setHazard s)) ∨
      (s.inReset = false ∧ ∃ r w, x = .write (BitVec.ofNat 32 r.offset) .word w ∧
        (s.pend = none ∨ r.writeIsHazard = false) ∧ (hostAccess x s).1 = s.writeReg w r) ∨
      (s.inReset = false ∧ s.pend = none ∧ ∃ i bs, i + bs.length ≤ s.params.imemBytes ∧
        (hostAccess x s).1 = { s with imem := Memory.setBytes s.imem i bs }) := by
  unfold hostAccess
  split
  · exact .inl rfl
  · next hr =>
    have hr : s.inReset = false := by simpa using hr
    split
    · next addr size =>
      rcases hostRead_cases addr size s with h | ⟨hp, hb, h⟩
      · exact .inl h
      · exact .inr (.inl ⟨hr, hp, hb, .inl h⟩)
    · next addr size w =>
      rcases hostWrite_cases addr size w s with h | ⟨hp, hb, h⟩ | ⟨r, rfl, rfl, hp, h⟩ | ⟨i, hp, hi, h⟩
      · exact .inl h
      · exact .inr (.inl ⟨hr, hp, hb, .inr h⟩)
      · exact .inr (.inr (.inl ⟨hr, r, w, rfl, hp, h⟩))
      · exact .inr (.inr (.inr ⟨hr, hp, i, _, by simpa using hi, h⟩))

/-- A transaction never touches these (R51: it is one step of the host alone). -/
theorem hostAccess_keeps (x : Txn) (s : State) :
    (hostAccess x s).1.params = s.params ∧ (hostAccess x s).1.omem = s.omem ∧
      (hostAccess x s).1.inReset = s.inReset ∧ (hostAccess x s).1.script = s.script ∧
      (hostAccess x s).1.epoch = s.epoch := by
  rcases hostAccess_cases x s with h | ⟨_, _, _, h | h⟩ | ⟨_, r, w, _, _, h⟩ | ⟨_, _, i, bs, _, h⟩
  · simp [h]
  · simp [h, hazardRead]
  · simp [h]
  · rw [h]
    cases r <;> simp [State.writeReg]
  · simp [h]

end Sys2Proof.Machine
end

