-- ==== Sys2Proof/Laws/PerInstr.lean ====
section
/-! SUPPORT. The statement made for every command, one lemma per constructor of `Instr`. -/

namespace Sys2Proof.Laws.TableWord

open Sys2Proof

/-- A command is well formed, its word is a legal command word, and the word's bits, numbered as the opcode table numbers
them, are the command (R70). -/
def Statement (i : Instr) : Prop :=
  i.wf = true ∧ commandWordLegal (Sys2Proof.encode i) = true ∧ decodeTableWord 32 (Sys2Proof.encode i).toNat = some i

theorem cksum : Statement .cksum := by
  unfold Statement
  decide

theorem crc16 : Statement .crc16 := by
  unfold Statement
  decide

theorem encode : Statement .encode := by
  unfold Statement
  decide

theorem decode : Statement .decode := by
  unfold Statement
  decide

end Sys2Proof.Laws.TableWord
end

