-- ==== Sys2Proof/Laws/Step.lean ====
section
/-! SUPPORT. What one step can do, said once: the agent that moves, and what its move leaves. -/

namespace Sys2Proof.Machine

/-- The step of a host transaction. -/
theorem step_txn {s : State} {x : Txn} {rest : List Event} (h : s.script = .txn x :: rest) :
    step s = .next (hostTransaction x { s with script := rest }) := by
  simp only [step, machineStep, h, agentStep]

/-- The step of the reset input. -/
theorem step_reset {s : State} {level : Bool} {rest : List Event} (h : s.script = .reset level :: rest) :
    step s = .next (applyReset level { s with script := rest }) := by
  simp only [step, machineStep, h, agentStep]

/-- The step of the core. -/
theorem step_core {s : State} (h : CoreMovesNext s) : step s = coreStep { s with script := s.script.tail } := by
  rcases h with h | h
  · simp only [step, machineStep, h, List.tail_nil]
    rw [← h]
  · cases hs : s.script with
    | nil => simp [hs] at h
    | cons e rest =>
      simp only [hs, List.head?_cons, Option.some.injEq] at h
      subst h
      simp only [step, machineStep, hs, agentStep, List.tail_cons]

/-- Which agent moves (R165). -/
theorem script_cases (s : State) :
    CoreMovesNext s ∨ (∃ x rest, s.script = .txn x :: rest) ∨ ∃ level rest, s.script = .reset level :: rest := by
  cases h : s.script with
  | nil => exact .inl (.inl h)
  | cons e rest =>
    cases e with
    | txn x => exact .inr (.inl ⟨x, rest, rfl⟩)
    | core => exact .inl (.inr (by simp [h]))
    | reset level => exact .inr (.inr ⟨level, rest, rfl⟩)

/-- The core's turn: nothing, the completion of an ILLEGAL word, or the meaning of the pending command (R186). -/
theorem coreStep_cases {s t : State} (h : coreStep s = .next t) :
    ((s.inReset = true ∨ s.pend = none) ∧ t = s) ∨
      (s.inReset = false ∧ s.pend = some .illegal ∧ t = complete .illegalCmd s) ∨
      ∃ i, s.inReset = false ∧ s.pend = some (.command i) ∧ exec i s = .next t := by
  unfold coreStep at h
  split at h
  · next hr => exact .inl ⟨.inl hr, by simpa using h.symm⟩
  · next hr =>
    have hr : s.inReset = false := by simpa using hr
    split at h
    · next hp => exact .inl ⟨.inr hp, by simpa using h.symm⟩
    · next hp => exact .inr (.inl ⟨hr, hp, by simpa using h.symm⟩)
    · next i hp => exact .inr (.inr ⟨i, hr, hp, h⟩)

/-- One step: the core's move, a host transaction, or the reset input. -/
theorem step_cases {s t : State} (h : step s = .next t) :
    (CoreMovesNext s ∧ coreStep { s with script := s.script.tail } = .next t) ∨
      (∃ x rest, s.script = .txn x :: rest ∧ t = hostTransaction x { s with script := rest }) ∨
      ∃ level rest, s.script = .reset level :: rest ∧ t = applyReset level { s with script := rest } := by
  rcases script_cases s with hc | ⟨x, rest, hx⟩ | ⟨level, rest, hl⟩
  · exact .inl ⟨hc, by rw [← step_core hc, h]⟩
  · rw [step_txn hx] at h
    exact .inr (.inl ⟨x, rest, hx, by simpa using h.symm⟩)
  · rw [step_reset hl] at h
    exact .inr (.inr ⟨level, rest, hl, by simpa using h.symm⟩)

/-- The move of the reset input: every register reset, or no event (R180). -/
theorem applyReset_cases (level : Bool) (s : State) :
    ((level = true ∨ s.inReset = true) ∧ applyReset level s = resetAll level s) ∨
      (level = false ∧ s.inReset = false ∧ applyReset level s = s) := by
  unfold applyReset
  cases level <;> cases h : s.inReset <;> simp

end Sys2Proof.Machine
end

