-- ==== Sys2Proof/Tests/Slice0.lean ====
section
/-! SUPPORT. The model's own tests. Expected values are those of spec/95_test_vectors.md, or are worked out by hand from
the rule named. A theorem `test_meets_<Name>` shows concrete inputs that meet every hypothesis of `Obligations.<Name>`,
at the boundaries of each clause. -/

namespace Sys2Proof.Tests

set_option Elab.async false

open Sys2Proof Sys2Proof.Machine

/-! ## States and readings -/

/-- The block after reset with a pending command, `bs` at IMEM offset 0 and region A on it. -/
def pending (i : Instr) (bs : List Byte) : State :=
  { State.reset with
    status := State.reset.status.onAccept
    pend := some (.command i)
    imem := Memory.setBytes [] 0 bs
    aLen := BitVec.ofNat 32 bs.length }

/-- The block after reset, with PEND and the schedule given. -/
def scheduled (p : Option Opcode) (es : List Event) : State :=
  { State.reset with
    status := { State.reset.status with busy := p.isSome }
    pend := p
    script := es }

/-- The state a step ends in. -/
def after : Host.Outcome State Fault Refusal → Option State
  | .next t => some t
  | .fault _ => none
  | .refused _ => none

/-- STATUS after a step, as the host reads it, and one more reading. -/
def seen {α : Type} (f : State → α) (o : Host.Outcome State Fault Refusal) : Option (Word × α) :=
  (after o).map fun t => (t.status.word, f t)

/-- The 47 bytes of vector E3, the all-zero frame. -/
def frameE3 : List Byte :=
  List.replicate 14 0x00#8 ++ [0xAB#8, 0x3D#8] ++ List.replicate 24 0x00#8 ++ [0xFF#8, 0xFF#8]
    ++ List.replicate 5 0x00#8

/-- An ENCODE of the contentType `61` and the payload `00`, with the header bank all 0 but H_APPLEN. -/
def encoding (appLen : Word) : State :=
  { pending .encode [0x61#8, 0x00#8] with
    aLen := 1#32
    bOff := 1#32
    bLen := 1#32
    hdr := { HeaderBank.zero with appLen := appLen } }

/-- The state that ENCODE leaves. -/
def encoded (appLen : Word) : State :=
  complete .noError (writeEncoded (encoding appLen))

/-- Its 49-byte frame copied to IMEM at offset 64. -/
def copied (appLen : Word) : State :=
  { pending .decode [] with
    imem := Memory.setBytes [] 64 (readBytes (encoded appLen).omemByte 0 49)
    aOff := 64#32
    aLen := 49#32 }

/-! ## Well-formedness smoke tests: each check refuses an ill-formed term -/

theorem test_word_zero_refused : commandWordLegal 0x00000000#32 = false := by decide
theorem test_word_op5_refused : commandWordLegal 0x00000005#32 = false := by decide
theorem test_word_op15_refused : commandWordLegal 0x0000000F#32 = false := by decide
theorem test_word_bit4_refused : commandWordLegal 0x00000011#32 = false := by decide
theorem test_word_bit31_refused : commandWordLegal 0x80000003#32 = false := by decide
theorem test_params_low_imem_refused : Params.wf ⟨63, 4096⟩ = false := by decide
theorem test_params_high_imem_refused : Params.wf ⟨65537, 4096⟩ = false := by decide
theorem test_params_low_omem_refused : Params.wf ⟨4096, 63⟩ = false := by decide
theorem test_params_high_omem_refused : Params.wf ⟨4096, 65537⟩ = false := by decide
theorem test_params_edges_accepted : Params.wf ⟨64, 65536⟩ = true ∧ Params.wf ⟨65536, 64⟩ = true := by decide

/-! ## Decoding: the words of 30_encoding.md R70, bit by bit, and R71's illegal ones -/

theorem test_decode_cksum :
    decodeCommand 0b0000_0000_0000_0000_0000_0000_0000_0001#32 = .ok .cksum := by decide
theorem test_decode_crc16 :
    decodeCommand 0b0000_0000_0000_0000_0000_0000_0000_0010#32 = .ok .crc16 := by decide
theorem test_decode_encode :
    decodeCommand 0b0000_0000_0000_0000_0000_0000_0000_0011#32 = .ok .encode := by decide
theorem test_decode_decode :
    decodeCommand 0b0000_0000_0000_0000_0000_0000_0000_0100#32 = .ok .decode := by decide
theorem test_decode_reserved :
    decodeCommand 0b0000_0000_0000_0000_0000_0000_0000_0101#32 = .error .reservedOpcode := by decide
theorem test_decode_upper :
    decodeCommand 0b0000_0000_0000_0000_0000_0000_0001_0001#32 = .error .nonzeroUpperBits := by decide
theorem test_decodeTableWord :
    [1, 2, 3, 4, 5].map (decodeTableWord 32) = [some .cksum, some .crc16, some .encode, some .decode, none] := by decide

/-- `withFetchWord` after reset: CKSUM of the empty region A gives 0xFFFF (41_checksum.md R101). -/
theorem test_withFetchWord :
    seen (·.result) (step (State.reset.withFetchWord 32 1)) = some (0x002#32, 0xFFFF#16) := by decide

/-! ## One step of each command (95_test_vectors.md) -/

/-- V6. -/
theorem test_cksum_v6 :
    seen (·.result) (step (pending .cksum [0x00#8, 0x01#8, 0xF2#8, 0x03#8, 0xF4#8, 0xF5#8, 0xF6#8, 0xF7#8])) =
      some (0x002#32, 0x220D#16) := by decide

/-- A region one byte past IMEM is RANGE, and RESULT keeps its value (R101). -/
theorem test_cksum_range :
    seen (·.result) (step { pending .cksum [0x00#8] with aOff := 4096#32, result := 0x1234#16 }) =
      some (0x202#32, 0x1234#16) := by decide

/-- V16, the check value of R112. -/
theorem test_crc16_check :
    seen (·.result) (step (pending .crc16
      [0x31#8, 0x32#8, 0x33#8, 0x34#8, 0x35#8, 0x36#8, 0x37#8, 0x38#8, 0x39#8])) =
      some (0x002#32, 0x29B1#16) := by decide +kernel

/-- A region whose end would wrap below 2^32 is RANGE (R111). -/
theorem test_crc16_no_wrap :
    seen (·.result) (step { pending .crc16 [0x00#8, 0x00#8] with aOff := 0xFFFFFFFF#32 }) =
      some (0x202#32, 0x0000#16) := by decide

/-- E3. -/
theorem test_encode_e3 :
    seen (fun t => (t.result, t.ckCalc, t.frameLen, readBytes t.omemByte 0 47)) (step (pending .encode [])) =
      some (0x002#32, 0xAB3D#16, 0xFFFF#16, 47#32, frameE3) := by decide +kernel

/-- E12's order: region B out of range is reported before the 0x00 of region A (R164). -/
theorem test_encode_order :
    seen (·.frameLen) (step { pending .encode [0x61#8, 0x00#8] with bOff := 4096#32, bLen := 1#32 }) =
      some (0x202#32, 0#32) := by decide

/-- DV10. -/
theorem test_decode_dv10 :
    seen (fun t => (t.ckCalc, t.fcsStored, t.ctOff, t.ctLen, t.plOff, t.plLen)) (step (pending .decode frameE3)) =
      some (0x03E#32, 0xFFFF#16, 0xAB3D#16, 42#32, 0#32, 47#32, 0#32) := by decide +kernel

/-- DV15. -/
theorem test_decode_dv15 :
    seen (fun t => (t.frameLen, t.ckCalc, t.ctOff)) (step (pending .decode (frameE3.take 46))) =
      some (0x502#32, 46#32, 0#16, 0#32) := by decide +kernel

/-! ## The hypotheses of the statements are met -/

/-- The block after reset with the input asserted and the schedule given. -/
def asserted (es : List Event) : State :=
  { State.reset with
    inReset := true
    script := es }

theorem test_meets_ResetRestoresEveryRegister :
    (scheduled (some .illegal) [.reset true]).script = .reset true :: [] ∧
      ((asserted [.reset false]).script = .reset false :: [] ∧ (asserted [.reset false]).inReset = true) ∧
      ((asserted [.txn (.read 0#32 .word)]).inReset = true ∧
        (asserted [.txn (.read 0#32 .word)]).script = .txn (.read 0#32 .word) :: []) ∧
      ((asserted [.core]).inReset = true ∧ CoreMovesNext (asserted [.core])) :=
  ⟨rfl, ⟨rfl, rfl⟩, ⟨rfl, rfl⟩, rfl, .inr rfl⟩

theorem test_meets_ResetForgetsTheBuffers : (scheduled none [.reset true]).script = .reset true :: [] := rfl

theorem test_meets_RegisterWindowOffsets :
    ∀ o ∈ [0x00, 0x44, 0x48, 0x7C, 0x80, 0xBC, 0xC0, 0xFC], o < 0x100 ∧ o % 4 = 0 := by decide

theorem test_meets_CommandRegisterStoresNothing :
    (let s := scheduled (some (.command .cksum)) [.txn (.write 4#32 .word 1#32)]
     s.inReset = false ∧ s.pend ≠ none ∧ s.script = .txn (.write 4#32 .word 1#32) :: []) ∧
      (let s := scheduled none [.txn (.write 4#32 .word 1#32)]
       s.inReset = false ∧ s.pend = none ∧ s.script = .txn (.write 4#32 .word 1#32) :: []) ∧
      (let s := scheduled none [.txn (.read 4#32 .word)]
       s.inReset = false ∧ s.script = .txn (.read 4#32 .word) :: []) := by decide

theorem test_meets_StatusWriteClearsByOnes :
    let s := scheduled (some .illegal) [.txn (.write 8#32 .word 0x82#32)]
    s.inReset = false ∧ s.script = .txn (.write 8#32 .word 0x82#32) :: [] := by decide

theorem test_meets_RegisterWriteTruncates :
    ∀ r ∈ [Reg.ctrl, .mtu, .bLen, .hSmacHi, .hVer, .hApplen],
      let x := Txn.write (BitVec.ofNat 32 r.offset) .word 0xFFFFFFFF#32
      r ≠ .cmd ∧ r ≠ .status ∧ r.isResult = false ∧ (scheduled none [.txn x]).inReset = false ∧
        (scheduled none [.txn x]).pend = none ∧ (scheduled none [.txn x]).script = .txn x :: [] := by decide

theorem test_meets_ReservedBitsAndReadOnlyRegisters :
    (0x10004 % 2 ^ Reg.mtu.width = 4 % 2 ^ Reg.mtu.width) ∧
      ReservedOffset 0x48 ∧ ReservedOffset 0x7C ∧ ReservedOffset 0xC0 ∧ ReservedOffset 0xFC ∧
      (∀ o ∈ [0x48, 0x7C, 0xC0, 0xFC],
        let x := Txn.read (BitVec.ofNat 32 o) .word
        (scheduled none [.txn x]).inReset = false ∧ (scheduled none [.txn x]).script = .txn x :: []) ∧
      (∀ r ∈ [Reg.result, .plLen],
        let x := Txn.write (BitVec.ofNat 32 r.offset) .word 1#32
        r.isResult = true ∧ (scheduled none [.txn x]).inReset = false ∧
          (scheduled none [.txn x]).script = .txn x :: []) := by
  refine ⟨by decide, ?_, ?_, ?_, ?_, by decide, by decide⟩ <;> simp [ReservedOffset]

theorem test_meets_RefusedTransactionHasNoEffect :
    (scheduled none [.txn (.write 2#32 .word 0#32)]).script = .txn (.write 2#32 .word 0#32) :: [] ∧
      (hostAccess (.write 2#32 .word 0#32) State.reset).2.resp = .slverr ∧
      0x1FF % 2 ^ (8 * Size.byte.bytes) = 0xFF % 2 ^ (8 * Size.byte.bytes) := by decide

theorem test_meets_RegisterAccessIsAnAlignedWord :
    (∀ a ∈ [0, 0xFC, 0xFF],
      let x := Txn.read (BitVec.ofNat 32 a) .byte
      a < 0x100 ∧ Size.byte ≠ .word ∧ (scheduled none [.txn x]).script = .txn x :: []) ∧
      (∀ a ∈ [1, 0xFF],
        let x := Txn.write (BitVec.ofNat 32 a) .word 0#32
        a < 0x100 ∧ a % 4 ≠ 0 ∧ (scheduled none [.txn x]).script = .txn x :: []) ∧
      (∀ r ∈ [Reg.ctrl, .hApplen], ∀ x ∈ [Txn.read (BitVec.ofNat 32 r.offset) .word,
          Txn.write (BitVec.ofNat 32 r.offset) .word 1#32],
        (scheduled none [.txn x]).inReset = false ∧ (scheduled none [.txn x]).pend = none ∧
          (scheduled none [.txn x]).script = .txn x :: []) := by decide

theorem test_meets_BufferAccessIsBigEndianAndAligned :
    (∀ i ∈ [0, 4092], i < 0x10000 ∧
      (i % Size.word.bytes = 0 ∧ i + Size.word.bytes ≤ State.reset.params.imemBytes) ∧
      (i % Size.word.bytes = 0 ∧ i + Size.word.bytes ≤ State.reset.params.omemBytes)) ∧
      (∀ i ∈ [1, 4093, 4096, 0xFFFC, 0xFFFF], i < 0x10000 ∧
        ¬(i % Size.word.bytes = 0 ∧ i + Size.word.bytes ≤ State.reset.params.imemBytes) ∧
        ¬(i % Size.word.bytes = 0 ∧ i + Size.word.bytes ≤ State.reset.params.omemBytes)) ∧
      (∀ i ∈ [0, 1, 4092, 4093, 4096, 0xFFFC, 0xFFFF], ∀ x ∈ [Txn.read (BitVec.ofNat 32 (0x10000 + i)) .word,
          .write (BitVec.ofNat 32 (0x10000 + i)) .word 0#32, .read (BitVec.ofNat 32 (0x20000 + i)) .word,
          .write (BitVec.ofNat 32 (0x20000 + i)) .word 0#32],
        (scheduled none [.txn x]).inReset = false ∧ (scheduled none [.txn x]).pend = none ∧
          (scheduled none [.txn x]).script = .txn x :: []) := by decide +kernel

theorem test_meets_UnmappedAddressAnswersSlverr :
    ∀ n ∈ [0x100, 0xFFFF, 0x11000, 0x1FFFF, 0x21000, 0x2FFFF, 0x30000, 0xFFFFFFFF],
      let a := BitVec.ofNat 32 n
      (0x100 ≤ a.toNat ∧ a.toNat < 0x10000 ∨
        0x10000 + State.reset.params.imemBytes ≤ a.toNat ∧ a.toNat < 0x20000 ∨
        0x20000 + State.reset.params.omemBytes ≤ a.toNat ∧ a.toNat < 0x30000 ∨ 0x30000 ≤ a.toNat) ∧
      (scheduled none [.txn (.read a .word)]).script = .txn (.read a .word) :: [] := by decide +kernel

theorem test_meets_BuffersAreOneWay :
    (∀ n ∈ [0x20000, 0x2FFFF],
      let x := Txn.write (BitVec.ofNat 32 n) .word 0#32
      0x20000 ≤ (BitVec.ofNat 32 n).toNat ∧ (BitVec.ofNat 32 n).toNat < 0x30000 ∧
        (scheduled none [.txn x]).script = .txn x :: []) ∧
      CoreMovesNext (pending .cksum []) ∧ (after (step (pending .cksum []))).isSome = true :=
  ⟨by decide +kernel, .inl rfl, by decide⟩

theorem test_meets_BusyHarmlessAccessesAsWhenIdle :
    (scheduled (some .illegal) []).pend ≠ none ∧ ReservedOffset 0x48 ∧ ReservedOffset 0xFC ∧
      (∀ o ∈ [0x0C, 0x1C], o % 4 = 0 ∧ 0x0C ≤ o ∧ o ≤ 0x1C) ∧
      (∀ n ∈ [0x10000, 0x1FFFF], 0x10000 ≤ (BitVec.ofNat 32 n).toNat ∧ (BitVec.ofNat 32 n).toNat < 0x20000) ∧
      (hostAccess (.write 0x20000#32 .word 0#32) State.reset).2.resp = .slverr := by
  refine ⟨by decide, ?_, ?_, by decide, by decide +kernel, by decide⟩ <;> simp [ReservedOffset]

theorem test_meets_BusyWritesAreDropped :
    (∀ a ∈ [0x04, 0x0C, 0x44, 0x80, 0xBC], a % 4 = 0 ∧ (a = 0x04 ∨ 0x0C ≤ a ∧ a ≤ 0x44 ∨ 0x80 ≤ a ∧ a ≤ 0xBC)) ∧
      (∀ a ∈ [0x10000, 0x10FFC], 0x10000 ≤ a ∧ a < 0x20000 ∧ (a - 0x10000) % Size.word.bytes = 0 ∧
        a - 0x10000 + Size.word.bytes ≤ State.reset.params.imemBytes) ∧
      (∀ a ∈ [0x04, 0x0C, 0x44, 0x80, 0xBC, 0x10000, 0x10FFC],
        let x := Txn.write (BitVec.ofNat 32 a) .word 0#32
        (scheduled (some .illegal) [.txn x]).inReset = false ∧ (scheduled (some .illegal) [.txn x]).pend ≠ none ∧
          (scheduled (some .illegal) [.txn x]).script = .txn x :: []) := by decide +kernel

theorem test_meets_BusyReadsAreUnspecified :
    (∀ a ∈ [0x20, 0x44, 0x80, 0xBC], a % 4 = 0 ∧ (0x20 ≤ a ∧ a ≤ 0x44 ∨ 0x80 ≤ a ∧ a ≤ 0xBC)) ∧
      (∀ a ∈ [0x20000, 0x20FFC], 0x20000 ≤ a ∧ a < 0x30000 ∧ (a - 0x20000) % Size.word.bytes = 0 ∧
        a - 0x20000 + Size.word.bytes ≤ State.reset.params.omemBytes) ∧
      (∀ a ∈ [0x20, 0x44, 0x80, 0xBC, 0x20000, 0x20FFC],
        let x := Txn.read (BitVec.ofNat 32 a) .word
        (scheduled (some .illegal) [.txn x]).inReset = false ∧ (scheduled (some .illegal) [.txn x]).pend ≠ none ∧
          (scheduled (some .illegal) [.txn x]).script = .txn x :: []) := by decide +kernel

theorem test_meets_OnlyHazardsSetHaz :
    (scheduled (some .illegal) [.txn (.write 4#32 .word 1#32)]).status.haz = false ∧
      (after (step (scheduled (some .illegal) [.txn (.write 4#32 .word 1#32)]))).map (·.status.haz) = some true := by
  decide

theorem test_meets_PendingHostAccessLeavesOperands :
    let s := scheduled (some .illegal) [.txn (.write 0#32 .word 1#32)]
    s.pend ≠ none ∧ s.script = .txn (.write 0#32 .word 1#32) :: [] := by decide

theorem test_meets_AcceptanceOfACommandWord :
    ∀ n ∈ [0, 1, 4, 5, 0xFFFFFFFF],
      let x := Txn.write 4#32 .word (BitVec.ofNat 32 n)
      (scheduled none [.txn x]).inReset = false ∧ (scheduled none [.txn x]).pend = none ∧
        (scheduled none [.txn x]).script = .txn x :: [] := by decide

theorem test_meets_CompletionStepRunsThePendingCommand :
    ((pending .decode []).inReset = false ∧ CoreMovesNext (pending .decode []) ∧
      (pending .decode []).pend = some (.command .decode)) ∧
      (let s := scheduled (some .illegal) [.core]
       s.inReset = false ∧ CoreMovesNext s ∧ s.pend = some .illegal) ∧
      (let s := scheduled none []
       s.inReset = false ∧ CoreMovesNext s ∧ s.pend = none) :=
  ⟨⟨rfl, .inl rfl, rfl⟩, ⟨rfl, .inr rfl, rfl⟩, rfl, .inl rfl, rfl⟩

theorem test_meets_StepRunsTheDecodedCommand :
    let s := scheduled none [.txn (.write 4#32 .word 4#32), .core]
    decodeCommand 4#32 = .ok .decode ∧ s.inReset = false ∧ s.pend = none ∧
      s.script = .txn (.write 4#32 .word 4#32) :: .core :: [] := by decide

theorem test_meets_IllegalWordCompletesWithIllegalCmd :
    (∀ n ∈ [5, 15], 5 ≤ ((BitVec.ofNat 32 n).extractLsb' 0 4).toNat) ∧
      (∀ n ∈ [0x10, 0x80000001], (BitVec.ofNat 32 n).extractLsb' 4 28 ≠ 0#28) ∧
      (∀ n ∈ [0, 5, 15, 0x10, 0x80000001],
        let x := Txn.write 4#32 .word (BitVec.ofNat 32 n)
        (scheduled none [.txn x, .core]).inReset = false ∧ (scheduled none [.txn x, .core]).pend = none ∧
          (scheduled none [.txn x, .core]).script = .txn x :: .core :: []) := by decide +kernel

theorem test_meets_IrqFollowsDoneAndIe :
    (CoreMovesNext (pending .cksum []) ∧ (pending .cksum []).pend ≠ none ∧ (pending .cksum []).inReset = false ∧
      (after (step (pending .cksum []))).isSome = true) ∧
      (let s : State := { scheduled none [.txn (.write 8#32 .word 2#32)] with
        ctrl := 1#1, status := { State.reset.status with done := true } }
       s.irq = true ∧ (after (step s)).map (·.irq) = some false) ∧
      (let s : State := { pending .cksum [] with ctrl := 1#1 }
       s.irq = false ∧ (after (step s)).map (·.irq) = some true) :=
  ⟨⟨.inl rfl, by decide, by decide, by decide⟩, by decide, by decide⟩

theorem test_meets_BigEndianPrimitives : 3 < 4 ∧ 0 + 4 ≤ [0x0F#8, 0xA0#8, 0x13#8, 0x88#8].length := by decide

theorem test_meets_CksumCompletes :
    (4096 + 0 ≤ State.reset.params.imemBytes ∧ State.reset.params.imemBytes < 4096 + 1) ∧
      (let s : State := { State.reset with aOff := 4096#32 }
       s.aOff.toNat + s.aLen.toNat ≤ s.params.imemBytes) ∧
      (let s : State := { State.reset with aOff := 4096#32, aLen := 1#32 }
       s.params.imemBytes < s.aOff.toNat + s.aLen.toNat) ∧
      foldedSum 0 [0xFF#8, 0xFF#8] = 0xFFFF := by decide

theorem test_meets_Crc16Completes :
    (let s : State := { State.reset with aOff := 4095#32, aLen := 1#32 }
     s.aOff.toNat + s.aLen.toNat ≤ s.params.imemBytes) ∧
      (let s : State := { State.reset with aOff := 0xFFFFFFFF#32, aLen := 2#32 }
       s.params.imemBytes < s.aOff.toNat + s.aLen.toNat) := by decide

theorem test_meets_ChecksumFoldAndZeroCases : 0xFFFF ≤ 0xFFFF ∧ 0 ≤ 0xFFFF := by decide

theorem test_meets_ChecksumDetectsEverySingleBitFlip :
    [(1#8, 2#8), (3#8, 4#8)].Perm [(3#8, 4#8), (1#8, 2#8)] ∧ 2 < [1#8, 2#8, 3#8].length ∧ 7 < 8 :=
  ⟨List.Perm.swap _ _ _, by decide, by decide⟩

theorem test_meets_CrcIsAffine : [1#8, 2#8].length = [3#8, 4#8].length := rfl

theorem test_meets_CrcDetectsEverySingleBitFlip : 1 < [1#8, 2#8].length ∧ 7 < 8 := by decide

theorem test_meets_EncodeCompletes :
    (encoding 1#32).aOff.toNat + (encoding 1#32).aLen.toNat ≤ (encoding 1#32).params.imemBytes ∧
      (encoding 1#32).bOff.toNat + (encoding 1#32).bLen.toNat ≤ (encoding 1#32).params.imemBytes ∧
      (∀ k < (encoding 1#32).aLen.toNat, (encoding 1#32).imemByte ((encoding 1#32).aOff.toNat + k) ≠ 0#8) ∧
      47 + (encoding 1#32).aLen.toNat + (encoding 1#32).bLen.toNat ≤ (encoding 1#32).params.omemBytes := by
  decide +kernel

/-- RANGE by region B alone, CT_NUL, and OVERFLOW by one byte. -/
theorem test_meets_EncodeRefusesInOrder :
    (let s : State := { encoding 1#32 with bOff := 4096#32 }
     s.params.imemBytes < s.bOff.toNat + s.bLen.toNat) ∧
      (let s : State := { encoding 1#32 with aLen := 2#32 }
       ∃ k < s.aLen.toNat, s.imemByte (s.aOff.toNat + k) = 0#8) ∧
      (let s : State := { encoding 1#32 with bLen := 4049#32 }
       (∀ k < s.aLen.toNat, s.imemByte (s.aOff.toNat + k) ≠ 0#8) ∧
         s.params.omemBytes < 47 + s.aLen.toNat + s.bLen.toNat) := by decide +kernel

/-- An ENCODE that completes with ERR = 0, for the statements about its frame. -/
theorem test_meets_EncodedFrameLayout :
    exec .encode (encoding 1#32) = .next (encoded 1#32) ∧ (encoded 1#32).status.err = .noError := by
  refine ⟨?_, rfl⟩
  rw [exec, execEncode, show (encoding 1#32).regionALegal = true by decide +kernel,
    show (encoding 1#32).regionBLegal = true by decide +kernel,
    show (encoding 1#32).regionA.contains 0x00#8 = false by decide +kernel]
  rfl

theorem test_meets_EncodedFrameIntegrity :
    exec .encode (encoding 1#32) = .next (encoded 1#32) ∧ (encoded 1#32).status.err = .noError :=
  test_meets_EncodedFrameLayout

theorem test_meets_EncodeIsDeterministic :
    let s' : State := { encoding 1#32 with mtu := 1#16, aOff := 0#32 }
    (encoding 1#32).hdr = s'.hdr ∧ (encoding 1#32).regionA = s'.regionA ∧ (encoding 1#32).regionB = s'.regionB ∧
      (after (exec .encode (encoding 1#32))).map (·.status.err) = some .noError ∧
      (after (exec .encode s')).map (·.status.err) = some .noError := by decide +kernel

theorem test_meets_DecodeCompletes :
    (pending .decode frameE3).aOff.toNat + (pending .decode frameE3).aLen.toNat
        ≤ (pending .decode frameE3).params.imemBytes ∧
      42 ≤ 42 ∧ 42 + 5 ≤ (pending .decode frameE3).aLen.toNat ∧
      (pending .decode frameE3).imemByte ((pending .decode frameE3).aOff.toNat + 42) = 0#8 ∧
      (∀ k, 42 ≤ k → k < 42 → (pending .decode frameE3).imemByte ((pending .decode frameE3).aOff.toNat + k) ≠ 0#8) :=
  ⟨by decide +kernel, by decide, by decide +kernel, by decide +kernel, fun k h1 h2 => absurd h2 (by omega)⟩

/-- Malformed by each of R143's three cases. -/
theorem test_meets_DecodeMalformed :
    (pending .decode (frameE3.take 41)).aLen.toNat < 42 ∧
      (42 ≤ (pending .decode (frameE3.take 46)).aLen.toNat ∧ (pending .decode (frameE3.take 46)).aLen.toNat ≤ 46) ∧
      (let s := pending .decode (List.replicate 48 0x61#8)
       ∀ k < s.aLen.toNat, s.imemByte (s.aOff.toNat + k) ≠ 0#8) ∧
      (let s := pending .decode (frameE3.take 46)
       42 < s.aLen.toNat ∧ s.imemByte (s.aOff.toNat + 42) = 0#8 ∧ s.aLen.toNat < 42 + 5) := by decide +kernel

theorem test_meets_DecodeLocatesContentTypeAndPayload :
    (copied 1#32).params.wf = true ∧
      (after (exec .decode (copied 1#32))).map (·.status.err) = some .noError := by decide +kernel

theorem test_meets_EncodeThenDecodeRoundTrips :
    (after (exec .encode (encoding 1#32))).map (·.status.err) = some .noError ∧
      (encoding 1#32).params.wf = true ∧ (encoding 1#32).hdr.appLen.toNat = (encoding 1#32).bLen.toNat ∧
      (copied 1#32).params.wf = true ∧ (copied 1#32).aLen = (encoded 1#32).frameLen ∧
      (copied 1#32).aOff.toNat + (copied 1#32).aLen.toNat ≤ (copied 1#32).params.imemBytes ∧
      (∀ k < (encoded 1#32).frameLen.toNat,
        (copied 1#32).imemByte ((copied 1#32).aOff.toNat + k) = (encoded 1#32).omemByte k) := by decide +kernel

theorem test_meets_WrongDeclaredLengthIsInvalid :
    (after (exec .encode (encoding 2#32))).map (·.status.err) = some .noError ∧
      (encoding 2#32).params.wf = true ∧ (encoding 2#32).hdr.appLen.toNat ≠ (encoding 2#32).bLen.toNat ∧
      (copied 2#32).params.wf = true ∧ (copied 2#32).aLen = (encoded 2#32).frameLen ∧
      (copied 2#32).aOff.toNat + (copied 2#32).aLen.toNat ≤ (copied 2#32).params.imemBytes ∧
      (∀ k < (encoded 2#32).frameLen.toNat,
        (copied 2#32).imemByte ((copied 2#32).aOff.toNat + k) = (encoded 2#32).omemByte k) := by decide +kernel

/-- A flip of the first and of the last bit of a frame. -/
theorem test_meets_FrameBitFlipBreaksFcs :
    (after (exec .decode (pending .decode frameE3))).map (fun t => (t.status.err, t.status.fcsOk))
        = some (.noError, true) ∧
      ∀ kj ∈ [(0, 0), (46, 7)],
        kj.1 < (pending .decode frameE3).aLen.toNat ∧ kj.2 < 8 ∧
        (pending .decode (flipBit frameE3 kj.1 kj.2)).regionA = flipBit (pending .decode frameE3).regionA kj.1 kj.2 ∧
        (after (exec .decode (pending .decode (flipBit frameE3 kj.1 kj.2)))).map (·.status.err) = some .noError := by
  decide +kernel

/-- A flip at the edges of the checksummed header, of the stored checksum, and of the payload. -/
theorem test_meets_ChecksummedBitFlipBreaksChecksum :
    (after (exec .decode (copied 1#32))).map (fun t => (t.status.err, t.status.ckOk, t.plOff))
        = some (.noError, true, 112#32) ∧
      ∀ k ∈ [27, 39, 40, 41, 48],
        let s' : State := { copied 1#32 with
          imem := Memory.setBytes [] 64 (flipBit (readBytes (encoded 1#32).omemByte 0 49) k 7) }
        k < (copied 1#32).aLen.toNat ∧ s'.regionA = flipBit (copied 1#32).regionA k 7 ∧ s'.regionALegal = true ∧
          (27 ≤ k ∧ k < 42 ∨ 112 ≤ (copied 1#32).aOff.toNat + k) := by decide +kernel

theorem test_meets_ErrorCodeOfEveryCommand :
    CoreMovesNext (scheduled (some .illegal) [.core]) ∧
      (after (step (scheduled (some .illegal) [.core]))).isSome = true ∧
      (scheduled (some .illegal) [.core]).inReset = false ∧ (scheduled (some .illegal) [.core]).pend = some .illegal ∧
      (after (exec .cksum (pending .cksum []))).isSome = true :=
  ⟨.inr rfl, by decide, rfl, rfl, by decide⟩

/-- RANGE, CT_NUL, OVERFLOW and MALFORMED. -/
theorem test_meets_ErrorsWriteOnlyWhatTheRuleLists :
    ((after (exec .crc16 { pending .crc16 [] with aOff := 4097#32 })).map (·.status.err) = some .range ∧
      (after (exec .encode { encoding 1#32 with aLen := 2#32 })).map (·.status.err) = some .ctNul) ∧
      (after (exec .encode { encoding 1#32 with bLen := 4049#32 })).map (·.status.err) = some .overflow ∧
      (after (exec .decode (pending .decode []))).map (·.status.err) = some .malformed := by decide +kernel

theorem test_meets_CommandsChangeOnlyWhatTheyName :
    (after (exec .decode (copied 1#32))).isSome = true ∧ (after (exec .encode (encoding 1#32))).isSome = true := by
  decide +kernel

theorem test_meets_ResultsDependOnOperandsAlone :
    let s := pending .cksum [0x41#8]
    let s' : State := { s with result := 0x1234#16, ctrl := 1#1 }
    s.params = s'.params ∧ s.aOff = s'.aOff ∧ s.aLen = s'.aLen ∧ s.bOff = s'.bOff ∧ s.bLen = s'.bLen ∧
      s.mtu = s'.mtu ∧ s.hdr = s'.hdr ∧ (∀ x, s.imemByte x = s'.imemByte x) ∧
      (after (exec .cksum s)).map (·.status.err) = some .noError ∧
      (after (exec .cksum s')).map (·.status.err) = some .noError :=
  ⟨rfl, rfl, rfl, rfl, rfl, rfl, rfl, fun _ => rfl, by decide, by decide⟩

theorem test_meets_EveryStepKeepsTheInvariant :
    Invariant (State.initial ⟨64, 65536⟩) ∧ (after (step (State.initial ⟨64, 65536⟩))).isSome = true := by
  refine ⟨⟨?_, ?_, ?_, ?_, ?_, ?_, ?_, ?_, ?_, ?_, ?_, ?_, ?_⟩, by decide⟩ <;>
    simp [State.initial, Status.reset, Params.wf, Memory.wf, Memory.within]

theorem test_meets_PendingCommandCompletesOnItsAcceptanceOperands :
    (scheduled (some (.command .crc16)) [.txn (.write 4#32 .word 2#32), .core]).pend = some (.command .crc16) ∧
      (scheduled (some (.command .crc16)) [.txn (.write 4#32 .word 2#32), .core]).inReset = false ∧
      ∀ level, Event.reset level ∉ (scheduled (some (.command .crc16)) [.txn (.write 4#32 .word 2#32), .core]).script :=
  ⟨rfl, rfl, by decide⟩

theorem test_meets_PendingIllegalWordCompletes :
    (scheduled (some .illegal) [.txn (.write 4#32 .word 2#32), .core]).pend = some .illegal ∧
      (scheduled (some .illegal) [.txn (.write 4#32 .word 2#32), .core]).inReset = false ∧
      ∀ level, Event.reset level ∉ (scheduled (some .illegal) [.txn (.write 4#32 .word 2#32), .core]).script :=
  ⟨rfl, rfl, by decide⟩

/-- One clause for each of the 34 offsets. -/
theorem test_meets_HostReadShowsTheRegisterAtEachOffset :
    ∀ r ∈ Reg.all,
      let s := scheduled none [.txn (.read (BitVec.ofNat 32 r.offset) .word)]
      s.inReset = false ∧ s.pend = none ∧ s.script = .txn (.read (BitVec.ofNat 32 r.offset) .word) :: [] := by
  decide +kernel

/-- One clause for each of the 32 offsets but those of CMD and STATUS. -/
theorem test_meets_HostWriteReachesTheRegisterAtEachOffset :
    ∀ r ∈ Reg.all, r ≠ .cmd → r ≠ .status →
      let x := Txn.write (BitVec.ofNat 32 r.offset) .word 0xFFFFFFFF#32
      (scheduled none [.txn x]).inReset = false ∧ (scheduled none [.txn x]).pend = none ∧
        (scheduled none [.txn x]).script = .txn x :: [] := by decide +kernel

end Sys2Proof.Tests
end

section
/-! SUPPORT. The state of the block as one step shows and changes it (10_state.md): a word access of a register, its
implemented bits, the reserved offsets and the read-only registers, and what a step can do to the interrupt output. Then
the statements of that part. -/

namespace Sys2Proof.Machine

/-! ## A word access of a register as one step (R43, R190 to R192) -/

/-- No write action looks at the schedule or changes it (R165). -/
theorem writeReg_script (s : State) (rest : List Event) (w : Word) (r : Reg) :
    State.writeReg { s with script := rest } w r = { s.writeReg w r with script := rest } := by
  cases r <;> rfl

/-- No register shows the schedule. -/
theorem readReg_script (s : State) (rest : List Event) (r : Reg) :
    State.readReg { s with script := rest } r = s.readReg r := by
  cases r <;> rfl

/-- A read that is no hazard shows the register and has no effect. -/
theorem step_readReg {s : State} {r : Reg} {rest : List Event} (hr : s.inReset = false)
    (hscript : s.script = .txn (.read (BitVec.ofNat 32 r.offset) .word) :: rest)
    (hh : s.pend = none ∨ r.readIsHazard = false) :
    step s = .next { s with script := rest, port := some ⟨s.readReg r, .okay⟩ } := by
  have hno : ¬(s.pend.isSome && r.readIsHazard) = true := by
    rcases hh with h | h <;> simp [h]
  have htxn := hostTransaction_readReg r (s := { s with script := rest }) hr
  rw [if_neg hno, readReg_script] at htxn
  rw [step_txn hscript, htxn, okay]

/-- A write that is no hazard performs the register's write action. -/
theorem step_writeReg {s : State} {r : Reg} {w : Word} {rest : List Event} (hr : s.inReset = false)
    (hscript : s.script = .txn (.write (BitVec.ofNat 32 r.offset) .word w) :: rest)
    (hh : s.pend = none ∨ r.writeIsHazard = false) :
    step s = .next { s.writeReg w r with script := rest, port := some ⟨0#32, .okay⟩ } := by
  have hno : ¬(s.pend.isSome && r.writeIsHazard) = true := by
    rcases hh with h | h <;> simp [h]
  have htxn := hostTransaction_writeReg r w (s := { s with script := rest }) hr
  rw [if_neg hno, writeReg_script] at htxn
  rw [step_txn hscript, htxn, okay]

/-- A write that is a hazard is dropped and sets HAZ. -/
theorem step_writeReg_hazard {s : State} {r : Reg} {w : Word} {rest : List Event} (hr : s.inReset = false)
    (hscript : s.script = .txn (.write (BitVec.ofNat 32 r.offset) .word w) :: rest)
    (hp : s.pend ≠ none) (hh : r.writeIsHazard = true) :
    step s = .next { s with
      script := rest
      port := some ⟨0#32, .okay⟩
      status := { s.status with haz := true } } := by
  have hyes : (s.pend.isSome && r.writeIsHazard) = true := by
    simp [Option.isSome_iff_ne_none, hp, hh]
  have htxn := hostTransaction_writeReg r w (s := { s with script := rest }) hr
  rw [if_pos hyes] at htxn
  rw [step_txn hscript, htxn, setHazard, Status.withHazard, okay]

/-! ## Implemented bits (R29, R30) -/

/-- Appending bits below a value that fits in `k` bits. -/
theorem append_toNat_lt {m n k : Nat} {x : BitVec m} (y : BitVec n) (h : x.toNat < 2 ^ k) :
    (x ++ y).toNat < 2 ^ (k + n) := by
  rw [BitVec.toNat_append]
  exact Nat.or_lt_two_pow (Nat.shiftLeft_lt h) (y.isLt.trans_le (Nat.pow_le_pow_right two_pos (Nat.le_add_left n k)))

/-- ERR is the topmost implemented field of STATUS, at [11:8] (R15). -/
theorem Status.word_toNat_lt (t : Status) : t.word.toNat < 2 ^ 12 := by
  have herr : (0#20 ++ t.err.code).toNat < 2 ^ (0 + 4) := append_toNat_lt _ (by decide)
  have hhigh := append_toNat_lt (.ofBool t.lenOk)
    (append_toNat_lt (.ofBool t.mtuOvf) (append_toNat_lt (.ofBool t.haz) herr))
  have hmid := append_toNat_lt (.ofBool t.valid)
    (append_toNat_lt (.ofBool t.ckOk) (append_toNat_lt (.ofBool t.fcsOk) hhigh))
  exact append_toNat_lt (.ofBool t.busy) (append_toNat_lt (.ofBool t.done) hmid)

/-- A value zero-extended to the bus keeps its own bound. -/
theorem toNat_setWidth_lt {k : Nat} (v : BitVec k) : (v.setWidth 32).toNat < 2 ^ k := by
  rw [BitVec.toNat_setWidth]
  exact (Nat.mod_le _ _).trans_lt v.isLt

/-- Reserved bits of every register read 0 (R30). -/
theorem readReg_toNat_lt (s : State) (r : Reg) : (s.readReg r).toNat < 2 ^ r.width := by
  cases r with
  | cmd => exact Nat.two_pow_pos 32
  | status => exact s.status.word_toNat_lt
  | aOff | aLen | bOff | bLen | frameLen | ctOff | ctLen | plOff | plLen | hSmacHi | hDmacHi | hSip | hDip | hSeq
  | hAck | hApplen => exact BitVec.isLt _
  | ctrl | mtu | result | ckCalc | ckStored | fcsCalc | fcsStored | hSmacLo | hDmacLo | hEtype | hVer | hTtl | hProto
  | hSport | hDport | hFlags => exact toNat_setWidth_lt _

/-- The write action of a register looks at its implemented bits alone (R29, R30). -/
theorem writeReg_setWidth (s : State) (w : Word) (r : Reg) :
    s.writeReg ((w.setWidth r.width).setWidth 32) r = s.writeReg w r := by
  cases r with
  | status => simp [State.writeReg, Reg.width, Status.writeOneToClear]
  | _ => simp [State.writeReg, Reg.width]

theorem setWidth_eq_of_mod_eq {k : Nat} {w w' : Word} (h : w.toNat % 2 ^ k = w'.toNat % 2 ^ k) :
    w.setWidth k = w'.setWidth k :=
  BitVec.eq_of_toNat_eq (by simpa using h)

/-! ## Reserved offsets and read-only registers (R30) -/

/-- The 34 registers stand in the two runs 0x000-0x044 and 0x080-0x0BC (R12). -/
theorem offset_range (r : Reg) : r.offset ≤ 0x44 ∨ 0x80 ≤ r.offset ∧ r.offset ≤ 0xBC := by
  cases r <;> decide

theorem regAt_reserved {o : Nat} (h : ReservedOffset o) : regAt o = none := by
  obtain ⟨-, hrange⟩ := h
  refine List.find?_eq_none.mpr fun r _ => ?_
  have hr := offset_range r
  rw [beq_iff_eq]
  omega

theorem reserved_accessLegal {o : Nat} (h : ReservedOffset o) :
    o < 0x100 ∧ registerAccessLegal o .word = true := by
  obtain ⟨halign, hrange⟩ := h
  exact ⟨by omega, by simp [registerAccessLegal, halign]⟩

/-- A reserved offset reads 0 and ignores a write, idle or not (R30). -/
theorem step_reserved {s : State} {o : Nat} {w : Word} {rest : List Event} (hr : s.inReset = false)
    (ho : ReservedOffset o)
    (hscript : s.script = .txn (.read (BitVec.ofNat 32 o) .word) :: rest ∨
      s.script = .txn (.write (BitVec.ofNat 32 o) .word w) :: rest) :
    step s = .next { s with script := rest, port := some ⟨0#32, .okay⟩ } := by
  obtain ⟨hlt, hlegal⟩ := reserved_accessLegal ho
  have hnone := regAt_reserved ho
  rcases hscript with hscript | hscript
  · rw [step_txn hscript]
    simp [hostTransaction, hostAccess, hr, hostRead, target_registers hlt, hlegal, readRegister, hnone, okay]
  · rw [step_txn hscript]
    simp [hostTransaction, hostAccess, hr, hostWrite, target_registers hlt, hlegal, writeRegister, hnone, okay]

/-- The result registers are read-only to the host (R19 to R23, R30). -/
theorem writeReg_of_isResult {r : Reg} (h : r.isResult = true) (s : State) (w : Word) : s.writeReg w r = s := by
  cases r with
  | result | ckCalc | ckStored | fcsCalc | fcsStored | frameLen | ctOff | ctLen | plOff | plLen => rfl
  | _ => exact absurd h (by decide)

theorem writeIsHazard_of_isResult {r : Reg} (h : r.isResult = true) : r.writeIsHazard = true := by
  cases r with
  | ctrl | status => exact absurd h (by decide)
  | _ => rfl

/-- HAZ is the one thing a write to a read-only register can change, and only while a command is pending (R30, R191). -/
theorem step_writeReg_of_isResult {s : State} {r : Reg} {w : Word} {rest : List Event} (hr : s.inReset = false)
    (hres : r.isResult = true) (hscript : s.script = .txn (.write (BitVec.ofNat 32 r.offset) .word w) :: rest) :
    step s = .next { s with
      script := rest
      port := some ⟨0#32, .okay⟩
      status := { s.status with haz := s.status.haz || s.pend.isSome } } := by
  by_cases hp : s.pend = none
  · rw [step_writeReg hr hscript (.inl hp), writeReg_of_isResult hres]
    simp [hp]
  · rw [step_writeReg_hazard hr hscript hp (writeIsHazard_of_isResult hres)]
    simp [Option.isSome_iff_ne_none, hp]

/-! ## Write-1-to-clear (R16) -/

theorem Status.writeOneToClear_eq_ite (w : Word) (t : Status) :
    t.writeOneToClear w = { t with
      done := if w.getLsbD 1 then false else t.done
      haz := if w.getLsbD 7 then false else t.haz } := by
  unfold Status.writeOneToClear
  cases w.getLsbD 1 <;> cases w.getLsbD 7 <;> simp

/-! ## The interrupt output (R33, R166) -/

theorem ie_eq_getLsbD (s : State) : s.ie = s.ctrl.getLsbD 0 := by
  unfold State.ie
  generalize s.ctrl = c
  revert c
  decide

/-- Every meaning ends in the completion of a state in which CTRL is untouched (R186). -/
theorem exec_completes {i : Instr} {s t : State} (h : exec i s = .next t) :
    ∃ code u, t = complete code u ∧ u.ctrl = s.ctrl := by
  cases i with
  | cksum =>
    rcases execCksum_cases h with ⟨_, rfl⟩ | ⟨_, rfl⟩ <;> exact ⟨_, _, rfl, rfl⟩
  | crc16 =>
    rcases execCrc16_cases h with ⟨_, rfl⟩ | ⟨_, rfl⟩ <;> exact ⟨_, _, rfl, rfl⟩
  | encode =>
    rcases execEncode_cases h with ⟨_, rfl⟩ | ⟨_, _, _, rfl⟩ | ⟨_, _, _, _, rfl⟩ | ⟨_, _, _, _, rfl⟩
    · exact ⟨_, _, rfl, rfl⟩
    · exact ⟨_, _, rfl, rfl⟩
    · exact ⟨_, _, rfl, rfl⟩
    · exact ⟨_, _, rfl, writeEncoded_ctrl s⟩
  | decode =>
    rcases execDecode_cases h with ⟨_, rfl⟩ | ⟨_, _, rfl⟩ | ⟨q, _, _, rfl⟩ <;> exact ⟨_, _, rfl, rfl⟩

/-- The core's turn leaves the state alone, or completes the pending command and leaves irq = IE (R166, R186). -/
theorem coreStep_irq_cases {s t : State} (h : coreStep s = .next t) :
    ((s.inReset = true ∨ s.pend = none) ∧ t = s) ∨
      (s.inReset = false ∧ s.pend ≠ none ∧ t.pend = none ∧ t.irq = s.ie) := by
  rcases coreStep_cases h with hidle | ⟨hr, hp, rfl⟩ | ⟨i, hr, hp, hexec⟩
  · exact .inl hidle
  · exact .inr ⟨hr, by simp [hp], rfl, complete_irq _ s⟩
  · obtain ⟨code, u, rfl, hctrl⟩ := exec_completes hexec
    refine .inr ⟨hr, by simp [hp], rfl, ?_⟩
    rw [complete_irq, State.ie, hctrl, State.ie]

theorem writeReg_ctrl_irq (s : State) (w : Word) :
    (s.writeReg w .ctrl).irq = (s.status.done && w.getLsbD 0) := by
  simp [State.irq, ie_eq_getLsbD, State.writeReg]

theorem writeReg_status_irq (s : State) (w : Word) :
    (s.writeReg w .status).irq = (s.irq && !w.getLsbD 1) := by
  simp [State.irq, State.ie, State.writeReg, Bool.and_right_comm]

/-- What a step can do to irq: it stays, or one of the five events of R166 and R180 says what it becomes. -/
inductive IrqMove (s t : State) : Prop where
  | unchanged (hirq : t.irq = s.irq)
  | completion (hcore : CoreMovesNext s) (hpend : s.pend ≠ none) (hdone : t.pend = none) (hirq : t.irq = s.ie)
  | reset (level : Bool) (rest : List Event) (hscript : s.script = .reset level :: rest)
      (hlevel : level = true ∨ s.inReset = true) (hirq : t.irq = false)
  | ctrlWrite (w : Word) (rest : List Event) (hscript : s.script = .txn (.write 0#32 .word w) :: rest)
      (hirq : t.irq = (s.status.done && w.getLsbD 0))
  | acceptance (w : Word) (rest : List Event) (hscript : s.script = .txn (.write 4#32 .word w) :: rest)
      (hpend : s.pend = none) (hirq : t.irq = false)
  | statusWrite (w : Word) (rest : List Event) (hscript : s.script = .txn (.write 8#32 .word w) :: rest)
      (hirq : t.irq = (s.irq && !w.getLsbD 1))

/-- CTRL, CMD and STATUS are the registers whose write action irq can see. -/
theorem irqMove_of_writeReg {s t : State} {r : Reg} {w : Word} {rest : List Event}
    (hscript : s.script = .txn (.write (BitVec.ofNat 32 r.offset) .word w) :: rest)
    (hpend : s.pend = none ∨ r.writeIsHazard = false) (hirq : t.irq = (s.writeReg w r).irq) : IrqMove s t := by
  cases r with
  | ctrl => exact .ctrlWrite w rest hscript (hirq.trans (writeReg_ctrl_irq s w))
  | cmd => exact .acceptance w rest hscript (hpend.resolve_right (by decide)) (hirq.trans (acceptCommand_irq w s))
  | status => exact .statusWrite w rest hscript (hirq.trans (writeReg_status_irq s w))
  | _ => exact .unchanged hirq

/-- irq sees nothing of a transaction but the write action of a register. -/
theorem hostAccess_irq_cases (x : Txn) (s : State) :
    (hostAccess x s).1.irq = s.irq ∨
      ∃ r w, x = .write (BitVec.ofNat 32 r.offset) .word w ∧ (s.pend = none ∨ r.writeIsHazard = false) ∧
        (hostAccess x s).1.irq = (s.writeReg w r).irq := by
  rcases hostAccess_cases x s with h | ⟨_, _, _, h | h⟩ | ⟨_, r, w, rfl, hpend, h⟩ | ⟨_, _, i, bs, _, h⟩
  · exact .inl (congrArg State.irq h)
  · exact .inl (congrArg (·.1.irq) h)
  · exact .inl ((congrArg State.irq h).trans rfl)
  · exact .inr ⟨r, w, rfl, hpend, congrArg State.irq h⟩
  · exact .inl ((congrArg State.irq h).trans rfl)

/-- irq does not see the response that a transaction leaves on the port. -/
theorem hostTransaction_irq (x : Txn) (s : State) : (hostTransaction x s).irq = (hostAccess x s).1.irq := rfl

theorem irqMove_of_hostTransaction {s : State} {x : Txn} {rest : List Event} (hscript : s.script = .txn x :: rest) :
    IrqMove s (hostTransaction x { s with script := rest }) := by
  have hport := hostTransaction_irq x { s with script := rest }
  rcases hostAccess_irq_cases x { s with script := rest } with h | ⟨r, w, rfl, hpend, h⟩
  · exact .unchanged (hport.trans h)
  · rw [writeReg_script] at h
    exact irqMove_of_writeReg hscript hpend (hport.trans h)

/-- Whichever agent moves (R165), irq moves by one of the events of `IrqMove`. -/
theorem irqMove_of_step {s t : State} (h : step s = .next t) : IrqMove s t := by
  rcases step_cases h with ⟨hcore, hstep⟩ | ⟨x, rest, hscript, rfl⟩ | ⟨level, rest, hscript, rfl⟩
  · rcases coreStep_irq_cases hstep with ⟨_, rfl⟩ | ⟨_, hpend, hdone, hirq⟩
    · exact .unchanged rfl
    · exact .completion hcore hpend hdone hirq
  · exact irqMove_of_hostTransaction hscript
  · rcases applyReset_cases level { s with script := rest } with ⟨hlevel, heq⟩ | ⟨_, _, heq⟩
    · exact .reset level rest hscript hlevel (by rw [heq, resetAll_irq])
    · exact .unchanged (by rw [heq]; rfl)

/-! ## The statements -/

/-- Settles O6: CMD is the register at offset 4; its read is no hazard (R192) and its write is one (R191). -/
theorem commandRegisterStoresNothing : Obligations.CommandRegisterStoresNothing := by
  intro s w rest hr
  refine ⟨fun hs => ?_, fun hs hp => ?_, fun hs hp => ?_⟩
  · exact step_readReg (r := .cmd) hr hs (.inr (by decide))
  · exact step_writeReg_hazard (r := .cmd) hr hs hp (by decide)
  · exact ⟨_, step_writeReg (r := .cmd) hr hs (.inl hp), rfl⟩

/-- Settles O7: STATUS is the register at offset 8, and a write to it is no hazard in any state (R190). -/
theorem statusWriteClearsByOnes : Obligations.StatusWriteClearsByOnes := by
  intro s w rest hr hs
  rw [step_writeReg (r := .status) hr hs (.inr (by decide)), State.writeReg, Status.writeOneToClear_eq_ite]

/-- Settles O9: what a read shows and a write action looks at are the implemented bits, no register stands at a reserved
offset, and a result register has no write action. -/
theorem reservedBitsAndReadOnlyRegisters : Obligations.ReservedBitsAndReadOnlyRegisters := by
  refine ⟨readReg_toNat_lt, fun s r w w' h => ?_, fun s o w rest hr ho hs => ?_, fun s r w rest hr hres hs => ?_⟩
  · rw [← writeReg_setWidth s w, ← writeReg_setWidth s w', setWidth_eq_of_mod_eq h]
  · exact step_reserved hr ho hs
  · exact step_writeReg_of_isResult hr hres hs

/-- Settles O25: the five events of `IrqMove`, read off for a rise and for a fall. -/
theorem irqFollowsDoneAndIe : Obligations.IrqFollowsDoneAndIe := by
  refine ⟨fun s => ?_, fun s t hr hcore hpend h => ?_, fun s t h hbefore hafter => ?_,
    fun s t h hbefore hafter => ?_⟩
  · rw [State.irq, ie_eq_getLsbD]
  · rw [step_core hcore] at h
    rcases coreStep_irq_cases h with ⟨hidle, _⟩ | ⟨_, _, _, hirq⟩
    · exact absurd hidle (by simp [hr, hpend])
    · exact hirq.trans (ie_eq_getLsbD s)
  · cases irqMove_of_step h with
    | unchanged hirq => simp [hirq, hbefore] at hafter
    | completion _ _ _ hirq =>
      have hie : s.ie = true := (Bool.and_eq_true_iff.mp hbefore).2
      simp [hirq, hie] at hafter
    | reset level rest hscript hlevel _ => exact .inl ⟨level, rest, hscript, hlevel⟩
    | ctrlWrite w rest hscript hirq =>
      have hdone : s.status.done = true := (Bool.and_eq_true_iff.mp hbefore).1
      rw [hirq, hdone, Bool.true_and] at hafter
      exact .inr (.inr (.inl ⟨w, rest, hscript, hafter⟩))
    | acceptance w rest hscript hpend _ => exact .inr (.inr (.inr ⟨w, rest, hscript, hpend⟩))
    | statusWrite w rest hscript hirq =>
      rw [hirq, hbefore, Bool.true_and, Bool.not_eq_false'] at hafter
      exact .inr (.inl ⟨w, rest, hscript, hafter⟩)
  · cases irqMove_of_step h with
    | unchanged hirq => simp [hirq, hbefore] at hafter
    | completion hcore hpend hdone _ => exact .inl ⟨hcore, hpend, hdone⟩
    | reset level rest _ _ hirq => simp [hirq] at hafter
    | ctrlWrite w rest hscript hirq =>
      rw [hirq, Bool.and_eq_true] at hafter
      exact .inr ⟨w, rest, hscript, hafter.2, hafter.1⟩
    | acceptance w rest _ _ hirq => simp [hirq] at hafter
    | statusWrite w rest _ hirq => simp [hirq, hbefore] at hafter

end Sys2Proof.Machine
end

section
/-! SUPPORT. The host port (20_memory.md): which accesses are refused and what a refusal leaves, the big-endian bytes of
a buffer access, and that the buffers are one-way. Then the statements of that part. -/

namespace Sys2Proof.Machine

/-! ## Addresses of a window (R41) -/

/-- An address from `base` on, as the base and the offset inside its window. -/
theorem exists_offset {a : Word} {base : Nat} (h : base ≤ a.toNat) :
    ∃ i, a = BitVec.ofNat 32 (base + i) ∧ base + i = a.toNat := by
  refine ⟨a.toNat - base, ?_, by omega⟩
  rw [Nat.add_sub_cancel' h, BitVec.ofNat_toNat, BitVec.setWidth_eq]

theorem target_unmapped {a : Word} (h : 0x100 ≤ a.toNat ∧ a.toNat < 0x10000 ∨ 0x30000 ≤ a.toNat) :
    target a = .unmapped := by
  unfold target
  rcases h with ⟨hlo, hhi⟩ | hlo
  · rw [if_neg (by omega), if_pos hhi]
  · rw [if_neg (by omega), if_neg (by omega), if_neg (by omega), if_neg (by omega)]

/-! ## Legal and refused accesses (R42 to R45) -/

/-- What R43, R44 and R45 ask of the offset and the size of an access, the direction and PEND apart. -/
def Target.accessLegal (p : Params) (size : Size) : Target → Bool
  | .registers offset => registerAccessLegal offset size
  | .imem offset => bufferAccessLegal p.imemBytes offset size
  | .omem offset => bufferAccessLegal p.omemBytes offset size
  | .unmapped => false

theorem registerAccessLegal_iff (o : Nat) (size : Size) :
    registerAccessLegal o size = true ↔ size = .word ∧ o % 4 = 0 := by
  simp [registerAccessLegal]

theorem bufferAccessLegal_iff (capacity i : Nat) (size : Size) :
    bufferAccessLegal capacity i size = true ↔ i % size.bytes = 0 ∧ i + size.bytes ≤ capacity := by
  simp [bufferAccessLegal]

/-- An access from the end of the buffer on is inside the unimplemented rest of its window (R41). -/
theorem bufferAccessLegal_of_capacity_le {capacity i : Nat} (h : capacity ≤ i) (size : Size) :
    bufferAccessLegal capacity i size = false := by
  have hpos : 0 < size.bytes := by cases size <;> decide
  rw [← Bool.not_eq_true, bufferAccessLegal_iff]
  omega

theorem hostRead_of_not_legal {addr : Word} {size : Size} {s : State}
    (h : (target addr).accessLegal s.params size = false) : hostRead addr size s = (s, slverr) := by
  unfold hostRead
  cases ht : target addr <;> simp_all [Target.accessLegal]

theorem hostWrite_of_not_legal {addr : Word} {size : Size} {s : State} (w : Word)
    (h : (target addr).accessLegal s.params size = false) : hostWrite addr size w s = (s, slverr) := by
  unfold hostWrite
  cases ht : target addr <;> simp_all [Target.accessLegal]

/-- OMEM is read-only to the host (R48). -/
theorem hostWrite_of_omem {addr : Word} {i : Nat} (h : target addr = .omem i) (size : Size) (w : Word) (s : State) :
    hostWrite addr size w s = (s, slverr) := by
  simp only [hostWrite, h]

theorem hostAccess_of_inReset {s : State} (h : s.inReset = true) (x : Txn) : hostAccess x s = (s, slverr) := by
  simp only [hostAccess, h, if_true]

theorem hostAccess_read {s : State} (h : s.inReset = false) (addr : Word) (size : Size) :
    hostAccess (.read addr size) s = hostRead addr size s := by
  simp [hostAccess, h]

theorem hostAccess_write {s : State} (h : s.inReset = false) (addr : Word) (size : Size) (w : Word) :
    hostAccess (.write addr size w) s = hostWrite addr size w s := by
  simp [hostAccess, h]

/-- A READ that is refused when reset is not asserted is refused in every state (R180). -/
theorem hostAccess_read_refused {addr : Word} {size : Size} {s : State} (h : hostRead addr size s = (s, slverr)) :
    hostAccess (.read addr size) s = (s, slverr) := by
  cases hr : s.inReset with
  | true => exact hostAccess_of_inReset hr _
  | false => rw [hostAccess_read hr, h]

/-- A WRITE that is refused when reset is not asserted is refused in every state (R180). -/
theorem hostAccess_write_refused {addr : Word} {size : Size} {w : Word} {s : State}
    (h : hostWrite addr size w s = (s, slverr)) : hostAccess (.write addr size w) s = (s, slverr) := by
  cases hr : s.inReset with
  | true => exact hostAccess_of_inReset hr _
  | false => rw [hostAccess_write hr, h]

/-- A refused transaction as one step: the response alone is new (R42). -/
theorem step_refused {s : State} {x : Txn} {rest : List Event} (hscript : s.script = .txn x :: rest)
    (h : hostAccess x { s with script := rest } = ({ s with script := rest }, slverr)) :
    step s = .next { s with script := rest, port := some ⟨0#32, .slverr⟩ } := by
  rw [step_txn hscript, hostTransaction, h, slverr]

/-- An access in either direction that R43, R44 or R45 does not allow is refused, in reset or not, idle or pending. -/
theorem step_of_not_legal {s : State} {addr : Word} {size : Size} {w : Word} {rest : List Event}
    (h : (target addr).accessLegal s.params size = false)
    (hscript : s.script = .txn (.read addr size) :: rest ∨ s.script = .txn (.write addr size w) :: rest) :
    step s = .next { s with script := rest, port := some ⟨0#32, .slverr⟩ } := by
  rcases hscript with hscript | hscript
  · exact step_refused hscript (hostAccess_read_refused (hostRead_of_not_legal h))
  · exact step_refused hscript (hostAccess_write_refused (hostWrite_of_not_legal w h))

/-! ## The response to a transaction (R42) -/

/-- A READ is refused without effect, or answers OKAY. -/
theorem hostRead_response (addr : Word) (size : Size) (s : State) :
    hostRead addr size s = (s, slverr) ∨ ∃ v, (hostRead addr size s).2 = okay v := by
  unfold hostRead
  split
  · split
    · unfold readRegister
      split
      · exact .inr ⟨_, rfl⟩
      · split <;> exact .inr ⟨_, rfl⟩
    · exact .inl rfl
  · split
    · exact .inr ⟨_, rfl⟩
    · exact .inl rfl
  · split
    · split <;> exact .inr ⟨_, rfl⟩
    · exact .inl rfl
  · exact .inl rfl

/-- A WRITE is refused without effect, or answers OKAY with rdata 0. -/
theorem hostWrite_response (addr : Word) (size : Size) (w : Word) (s : State) :
    hostWrite addr size w s = (s, slverr) ∨ (hostWrite addr size w s).2 = okay 0#32 := by
  unfold hostWrite
  split
  · split
    · exact .inr rfl
    · exact .inl rfl
  · split
    · exact .inr rfl
    · exact .inl rfl
  · exact .inl rfl
  · exact .inl rfl

/-- A transaction is refused without effect, or answers OKAY; the rdata of a WRITE is 0. -/
theorem hostAccess_response (x : Txn) (s : State) :
    hostAccess x s = (s, slverr) ∨
      ∃ v, (hostAccess x s).2 = okay v ∧ ∀ addr size w, x = .write addr size w → v = 0#32 := by
  cases hr : s.inReset with
  | true => exact .inl (hostAccess_of_inReset hr x)
  | false =>
    cases x with
    | read addr size =>
      rw [hostAccess_read hr]
      exact (hostRead_response addr size s).imp_right fun ⟨v, hv⟩ => ⟨v, hv, nofun⟩
    | write addr size w =>
      rw [hostAccess_write hr]
      exact (hostWrite_response addr size w s).imp_right fun hv => ⟨0#32, hv, fun _ _ _ _ => rfl⟩

/-! ## The bytes of a write (R42, R44) -/

/-- `be_n` looks at the low 8n bits of its argument alone (R91). -/
theorem beBytes_mod {n m : Nat} (h : n ≤ m) (v : Nat) : beBytes n (v % 2 ^ (8 * m)) = beBytes n v := by
  induction n with
  | zero => rfl
  | succ n ih =>
    rw [beBytes_succ, beBytes_succ, ih (by omega)]
    congr 1
    apply BitVec.eq_of_getLsbD_eq
    intro j hj
    have hlow : 8 * n + j < 8 * m := by omega
    simp [BitVec.getLsbD_ofNat, Nat.testBit_shiftRight, Nat.testBit_mod_two_pow, hlow]

theorem beBytes_congr {n v v' : Nat} (h : v % 2 ^ (8 * n) = v' % 2 ^ (8 * n)) : beBytes n v = beBytes n v' := by
  rw [← beBytes_mod le_rfl v, h, beBytes_mod le_rfl]

/-- The byte of `be_n(v)` at offset `k`, the most significant first (R90). -/
theorem beBytes_getElem (n v k : Nat) (h : k < (beBytes n v).length) :
    (beBytes n v)[k] = BitVec.ofNat 8 (v >>> (8 * (n - 1 - k))) := by
  induction n generalizing k with
  | zero => exact absurd h (Nat.not_lt_zero k)
  | succ n ih =>
    cases k with
    | zero => rfl
    | succ k =>
      have hk : k < (beBytes n v).length := Nat.lt_of_succ_lt_succ h
      simp only [beBytes_succ, List.getElem_cons_succ, ih k hk]
      rw [show n + 1 - 1 - (k + 1) = n - 1 - k by omega]

/-- A WRITE of another wdata with the same low bits is the same transaction: a register takes a whole word (R43), and
IMEM takes `be_n(wdata)` (R44). -/
theorem hostWrite_congr {addr : Word} {size : Size} {w w' : Word}
    (h : w.toNat % 2 ^ (8 * size.bytes) = w'.toNat % 2 ^ (8 * size.bytes)) (s : State) :
    hostWrite addr size w s = hostWrite addr size w' s := by
  cases ht : target addr with
  | registers o =>
    cases hl : registerAccessLegal o size with
    | false =>
      have hbad : (target addr).accessLegal s.params size = false := by rw [ht, Target.accessLegal, hl]
      rw [hostWrite_of_not_legal w hbad, hostWrite_of_not_legal w' hbad]
    | true =>
      obtain ⟨rfl, -⟩ := (registerAccessLegal_iff o size).mp hl
      have hw : w = w' := by simpa using setWidth_eq_of_mod_eq (k := 32) h
      rw [hw]
  | imem i => simp only [hostWrite, ht, writeImem, beBytes_congr h]
  | omem i => rw [hostWrite_of_omem ht, hostWrite_of_omem ht]
  | unmapped => simp only [hostWrite, ht]

theorem hostAccess_write_congr {addr : Word} {size : Size} {w w' : Word}
    (h : w.toNat % 2 ^ (8 * size.bytes) = w'.toNat % 2 ^ (8 * size.bytes)) (s : State) :
    hostAccess (.write addr size w) s = hostAccess (.write addr size w') s := by
  simp only [hostAccess, hostWrite_congr h]

/-! ## Buffer accesses (R44) -/

theorem bufferValue_byte (byte : Nat → Byte) (i : Nat) :
    bufferValue byte i .byte = BitVec.ofNat 32 (byte i).toNat := by
  simp [bufferValue, Size.bytes, readBytes]

theorem bufferValue_half (byte : Nat → Byte) (i : Nat) :
    bufferValue byte i .half = BitVec.ofNat 32 ((byte i).toNat * 256 + (byte (i + 1)).toNat) := by
  simp [bufferValue, Size.bytes, readBytes, beValue, List.range']

theorem bufferValue_word (byte : Nat → Byte) (i : Nat) :
    bufferValue byte i .word =
      BitVec.ofNat 32 ((((byte i).toNat * 256 + (byte (i + 1)).toNat) * 256 + (byte (i + 2)).toNat) * 256
        + (byte (i + 3)).toNat) := by
  simp [bufferValue, Size.bytes, readBytes, beValue, List.range']

/-- IMEM after a byte sequence was stored at `a`. -/
theorem imemByte_setBytes (s : State) (a : Nat) (bs : List Byte) (x : Nat) :
    State.imemByte { s with imem := Memory.setBytes s.imem a bs } x =
      if h : a ≤ x ∧ x < a + bs.length then bs[x - a] else s.imemByte x := by
  split
  · next h =>
    obtain ⟨k, rfl⟩ := Nat.exists_eq_add_of_le h.1
    have hk : k < bs.length := by omega
    simp [State.imemByte, Memory.get_setBytes_inside hk]
  · next h => simp only [State.imemByte, Memory.get_setBytes_outside (show x < a ∨ a + bs.length ≤ x by omega)]

/-- A legal READ of IMEM has no effect, idle or pending (R190). -/
theorem hostRead_imem {s : State} {i : Nat} {size : Size} (hi : i < 0x10000)
    (hlegal : i % size.bytes = 0 ∧ i + size.bytes ≤ s.params.imemBytes) :
    hostRead (BitVec.ofNat 32 (0x10000 + i)) size s = (s, okay (bufferValue s.imemByte i size)) := by
  simp only [hostRead, target_imem hi, (bufferAccessLegal_iff ..).mpr hlegal, if_true]

/-- A legal READ of OMEM when nothing is pending; else it is a hazard (R192). -/
theorem hostRead_omem {s : State} {i : Nat} {size : Size} (hi : i < 0x10000)
    (hlegal : i % size.bytes = 0 ∧ i + size.bytes ≤ s.params.omemBytes) (hp : s.pend = none) :
    hostRead (BitVec.ofNat 32 (0x20000 + i)) size s = (s, okay (bufferValue s.omemByte i size)) := by
  simp [hostRead, target_omem hi, (bufferAccessLegal_iff ..).mpr hlegal, hp]

/-- A legal WRITE of IMEM when nothing is pending; else it is a hazard (R191). -/
theorem hostWrite_imem {s : State} {i : Nat} {size : Size} (w : Word) (hi : i < 0x10000)
    (hlegal : i % size.bytes = 0 ∧ i + size.bytes ≤ s.params.imemBytes) (hp : s.pend = none) :
    hostWrite (BitVec.ofNat 32 (0x10000 + i)) size w s =
      ({ s with imem := Memory.setBytes s.imem i (beBytes size.bytes w.toNat) }, okay 0#32) := by
  simp [hostWrite, target_imem hi, (bufferAccessLegal_iff ..).mpr hlegal, writeImem, hp]

/-- A READ without effect as one step, when reset is not asserted. -/
theorem step_read {s : State} {addr : Word} {size : Size} {v : Word} {rest : List Event} (hr : s.inReset = false)
    (hscript : s.script = .txn (.read addr size) :: rest)
    (h : hostRead addr size { s with script := rest } = ({ s with script := rest }, okay v)) :
    step s = .next { s with script := rest, port := some ⟨v, .okay⟩ } := by
  have haccess := hostAccess_read (s := { s with script := rest }) hr addr size
  rw [step_txn hscript, hostTransaction, haccess, h, okay]

/-- The step of a legal WRITE of IMEM when nothing is pending. -/
theorem step_writeImem {s : State} {i : Nat} {size : Size} {w : Word} {rest : List Event} (hr : s.inReset = false)
    (hi : i < 0x10000) (hlegal : i % size.bytes = 0 ∧ i + size.bytes ≤ s.params.imemBytes) (hp : s.pend = none)
    (hscript : s.script = .txn (.write (BitVec.ofNat 32 (0x10000 + i)) size w) :: rest) :
    step s = .next { s with
      script := rest
      port := some ⟨0#32, .okay⟩
      imem := Memory.setBytes s.imem i (beBytes size.bytes w.toNat) } := by
  have haccess := hostAccess_write (s := { s with script := rest }) hr (BitVec.ofNat 32 (0x10000 + i)) size w
  have hwrite := hostWrite_imem (s := { s with script := rest }) w hi hlegal hp
  rw [step_txn hscript, hostTransaction, haccess, hwrite, okay]

/-! ## IMEM is read-only to the core (R48) -/

/-- No meaning writes IMEM: what each can write is said by its own cases. -/
theorem exec_imem {i : Instr} {s t : State} (h : exec i s = .next t) : t.imem = s.imem := by
  cases i with
  | cksum =>
    rcases execCksum_cases h with ⟨_, rfl⟩ | ⟨_, rfl⟩ <;> rfl
  | crc16 =>
    rcases execCrc16_cases h with ⟨_, rfl⟩ | ⟨_, rfl⟩ <;> rfl
  | encode =>
    rcases execEncode_cases h with ⟨_, rfl⟩ | ⟨_, _, _, rfl⟩ | ⟨_, _, _, _, rfl⟩ | ⟨_, _, _, _, rfl⟩
    · rfl
    · rfl
    · rfl
    · exact writeEncoded_imem s
  | decode =>
    rcases execDecode_cases h with ⟨_, rfl⟩ | ⟨_, _, rfl⟩ | ⟨q, _, _, rfl⟩ <;> rfl

theorem coreStep_imem {s t : State} (h : coreStep s = .next t) : t.imem = s.imem := by
  rcases coreStep_cases h with ⟨_, rfl⟩ | ⟨_, _, rfl⟩ | ⟨i, _, _, hexec⟩
  · rfl
  · rfl
  · exact exec_imem hexec

/-! ## The statements -/

/-- Settles O10: a transaction is refused without effect or answers OKAY, and a write looks at its low bits alone. -/
theorem refusedTransactionHasNoEffect : Obligations.RefusedTransactionHasNoEffect := by
  refine ⟨fun s x rest hs => ?_, fun s addr size w w' h => hostAccess_write_congr h s⟩
  refine ⟨_, (hostAccess x { s with script := rest }).2, step_txn hs, rfl, ?_⟩
  rcases hostAccess_response x { s with script := rest } with h | ⟨v, hv, hwrite⟩
  · rw [hostTransaction, h]
    exact ⟨fun _ => ⟨rfl, rfl⟩, fun _ _ _ _ => rfl⟩
  · rw [hv]
    exact ⟨nofun, hwrite⟩

/-- Settles O11: what is no aligned word is refused, and a register's own offset is legal. -/
theorem registerAccessIsAnAlignedWord : Obligations.RegisterAccessIsAnAlignedWord := by
  refine ⟨fun s a size w rest ha hbad hs => ?_, fun s r w rest hr hp => ⟨fun hs => ?_, fun hs => ?_⟩⟩
  · refine step_of_not_legal ?_ hs
    rw [target_registers ha, Target.accessLegal, ← Bool.not_eq_true, registerAccessLegal_iff]
    tauto
  · exact step_readReg hr hs (.inl hp)
  · exact step_writeReg hr hs (.inl hp)

/-- Settles O12: a legal access reaches the bytes of the buffer, the most significant first, and an IMEM write no other
byte; every other access is refused. -/
theorem bufferAccessIsBigEndianAndAligned : Obligations.BufferAccessIsBigEndianAndAligned := by
  intro s i size w rest hr hi
  refine ⟨fun hlegal => ⟨fun hs => ?_, fun hp hs => ?_⟩, fun hbad hs => ?_, fun hlegal hp hs => ?_,
    fun hbad hs => ?_⟩
  · rw [step_read hr hs (hostRead_imem hi hlegal)]
    cases size with
    | byte => rw [bufferValue_byte]; rfl
    | half => rw [bufferValue_half]; rfl
    | word => rw [bufferValue_word]; rfl
  · refine ⟨_, step_writeImem hr hi hlegal hp hs, fun k hk => ?_, fun x hx => ?_⟩
    · rw [imemByte_setBytes, dif_pos (by rw [beBytes_length]; omega), beBytes_getElem, Nat.add_sub_cancel_left]
    · rw [imemByte_setBytes, dif_neg (by rw [beBytes_length]; omega)]
  · refine step_of_not_legal ?_ hs
    rwa [target_imem hi, Target.accessLegal, ← Bool.not_eq_true, bufferAccessLegal_iff]
  · rw [step_read hr hs (hostRead_omem hi hlegal hp)]
    cases size with
    | byte => rw [bufferValue_byte]; rfl
    | half => rw [bufferValue_half]; rfl
    | word => rw [bufferValue_word]; rfl
  · refine step_of_not_legal ?_ hs
    rwa [target_omem hi, Target.accessLegal, ← Bool.not_eq_true, bufferAccessLegal_iff]

/-- Settles O14: a write that leads to OMEM is refused at every size, and no meaning writes IMEM. -/
theorem buffersAreOneWay : Obligations.BuffersAreOneWay := by
  refine ⟨fun s a size w rest hlo hhi hs => ?_, fun s t hcore h => ?_⟩
  · obtain ⟨i, rfl, hi⟩ := exists_offset hlo
    exact step_refused hs (hostAccess_write_refused (hostWrite_of_omem (target_omem (by omega)) size w _))
  · rw [step_core hcore] at h
    exact coreStep_imem (s := { s with script := s.script.tail }) h

/-- Settles O13: an address of R41's unmapped ranges leads nowhere, or past the end of a buffer. -/
theorem unmappedAddressAnswersSlverr : Obligations.UnmappedAddressAnswersSlverr := by
  intro s a size w rest hrange hs
  refine step_of_not_legal ?_ hs
  rcases hrange with hgap | ⟨hend, hwindow⟩ | ⟨hend, hwindow⟩ | habove
  · rw [target_unmapped (.inl hgap), Target.accessLegal]
  · obtain ⟨i, rfl, hi⟩ := exists_offset (base := 0x10000) (a := a) (by omega)
    rw [target_imem (by omega), Target.accessLegal, bufferAccessLegal_of_capacity_le (by omega)]
  · obtain ⟨i, rfl, hi⟩ := exists_offset (base := 0x20000) (a := a) (by omega)
    rw [target_omem (by omega), Target.accessLegal, bufferAccessLegal_of_capacity_le (by omega)]
  · rw [target_unmapped (.inr habove), Target.accessLegal]

end Sys2Proof.Machine
end

section
/-! SUPPORT. The encodings (30_encoding.md): which words are commands and what an ILLEGAL one does, what a byte source
holds from an offset on, and the layout of the frame that ENCODE leaves in OMEM. Then the statements of that part. -/

namespace Sys2Proof

/-! ## Command words (R70, R71) -/

theorem upperField_encode (i : Instr) : upperField (encode i) = 0#28 := by
  cases i <;> decide

theorem instrOfOp_eq_some_iff (op : BitVec 4) (i : Instr) : instrOfOp op = some i ↔ op = opField (encode i) := by
  revert op
  cases i <;> decide

theorem eq_encode_iff (w : Word) (i : Instr) :
    w = encode i ↔ upperField w = 0#28 ∧ opField w = opField (encode i) := by
  constructor
  · rintro rfl
    exact ⟨upperField_encode i, rfl⟩
  · rintro ⟨hupper, hop⟩
    exact commandWord_ext (hupper.trans (upperField_encode i).symm) hop

/-- The decoder reads a command from its own encoding alone. -/
theorem decodeCommand_eq_ok_iff (w : Word) (i : Instr) : decodeCommand w = .ok i ↔ w = encode i := by
  rw [eq_encode_iff, ← instrOfOp_eq_some_iff, decodeCommand]
  split
  · next hupper => cases instrOfOp (opField w) <;> simp [hupper]
  · next hupper => simp [hupper]

/-- No command word has a field of R71. -/
theorem encode_fields_legal (i : Instr) :
    ¬(encode i = 0#32 ∨ 5 ≤ ((encode i).extractLsb' 0 4).toNat ∨ (encode i).extractLsb' 4 28 ≠ 0#28) := by
  cases i <;> decide

end Sys2Proof

namespace Sys2Proof.Machine

theorem opcodeOf_eq_illegal_iff (w : Word) : opcodeOf w = .illegal ↔ ∀ i, w ≠ encode i := by
  simp only [ne_eq, ← decodeCommand_eq_ok_iff]
  unfold opcodeOf
  cases decodeCommand w <;> simp

/-! ## An ILLEGAL word (R162) -/

/-- The step that accepts a command word. -/
theorem step_accept {s : State} {w : Word} {rest : List Event} (hr : s.inReset = false) (hp : s.pend = none)
    (hscript : s.script = .txn (.write 4#32 .word w) :: rest) :
    step s = .next { acceptCommand w s with script := rest, port := some ⟨0#32, .okay⟩ } :=
  step_writeReg (r := .cmd) hr hscript (.inl hp)

/-- The core's turn when an ILLEGAL word is pending. -/
theorem step_illegal {s : State} (hr : s.inReset = false) (hp : s.pend = some .illegal) (hcore : CoreMovesNext s) :
    step s = .next (complete .illegalCmd { s with script := s.script.tail }) := by
  rw [step_core hcore]
  simp [coreStep, hr, hp]

/-! ## Big-endian bytes read back (R90 to R92) -/

/-- `be_n(v)` read back is `v` but for the bits that `be_n` drops. -/
theorem beValue_beBytes (n v : Nat) : beValue (beBytes n v) = v % 256 ^ n := by
  induction n with
  | zero => simp [Nat.mod_one]
  | succ n ih =>
    have hbyte : (BitVec.ofNat 8 (v >>> (8 * n))).toNat = v / 256 ^ n % 256 := by
      rw [BitVec.toNat_ofNat, Nat.shiftRight_eq_div_pow, pow_mul]
      norm_num
    rw [beBytes_succ, beValue_cons, beBytes_length, ih, hbyte, pow_succ, Nat.mod_mul]
    ring

/-- An encoding that is as wide as the value loses nothing. -/
theorem beValue_beBytes_toNat {m n : Nat} (v : BitVec m) (hm : m = 8 * n) : beValue (beBytes n v.toNat) = v.toNat := by
  subst hm
  rw [beValue_beBytes, Nat.mod_eq_of_lt]
  simpa [pow_mul] using v.isLt

/-! ## What a byte source holds from an offset on -/

/-- The bytes from offset `a` on are `bs`. -/
def HoldsAt (byte : Nat → Byte) (a : Nat) (bs : List Byte) : Prop :=
  readBytes byte a bs.length = bs

theorem readBytes_add (byte : Nat → Byte) (a m n : Nat) :
    readBytes byte a (m + n) = readBytes byte a m ++ readBytes byte (a + m) n := by
  rw [readBytes, ← List.range'_append_1, List.map_append]
  rfl

/-- A sequence stands at an offset when its two parts stand one after the other. -/
theorem holdsAt_append {byte : Nat → Byte} {a : Nat} {bs cs : List Byte} :
    HoldsAt byte a (bs ++ cs) ↔ HoldsAt byte a bs ∧ HoldsAt byte (a + bs.length) cs := by
  rw [HoldsAt, List.length_append, readBytes_add]
  constructor
  · intro h
    exact List.append_inj h (readBytes_length ..)
  · rintro ⟨hbs, hcs⟩
    exact congrArg₂ _ hbs hcs

theorem holdsAt_singleton {byte : Nat → Byte} {a : Nat} {b : Byte} : HoldsAt byte a [b] ↔ byte a = b := by
  simp [HoldsAt, readBytes]

theorem HoldsAt.readBytes_eq {byte : Nat → Byte} {a n : Nat} {bs : List Byte} (h : HoldsAt byte a bs)
    (hn : bs.length = n) : readBytes byte a n = bs := by
  subst hn
  exact h

/-- A field of R62 is read back from the bytes of its encoding. -/
theorem HoldsAt.beValue_eq {byte : Nat → Byte} {a m n : Nat} {v : BitVec m} (h : HoldsAt byte a (beBytes n v.toNat))
    (hm : m = 8 * n) : beValue (readBytes byte a n) = v.toNat := by
  rw [h.readBytes_eq (beBytes_length ..), beValue_beBytes_toNat v hm]

theorem beValue_readBytes_one (byte : Nat → Byte) (a : Nat) : beValue (readBytes byte a 1) = (byte a).toNat := by
  simp [readBytes]

/-- A source that holds what was read from another agrees with it byte by byte. -/
theorem HoldsAt.byte_eq {f g : Nat → Byte} {a b n : Nat} (h : HoldsAt f a (readBytes g b n)) {k : Nat} (hk : k < n) :
    f (a + k) = g (b + k) := by
  have hread := h.readBytes_eq (readBytes_length ..)
  have hget := congrArg (·[k]?) hread
  simpa [readBytes_getElem?, hk] using hget

/-! ## The layout of a frame (R62) -/

theorem holdsAt_link {byte : Nat → Byte} {h : HeaderBank} : HoldsAt byte 0 h.link ↔
    HoldsAt byte 0 (beBytes 4 h.smacHi.toNat) ∧ HoldsAt byte 4 (beBytes 2 h.smacLo.toNat) ∧
      HoldsAt byte 6 (beBytes 4 h.dmacHi.toNat) ∧ HoldsAt byte 10 (beBytes 2 h.dmacLo.toNat) ∧
      HoldsAt byte 12 (beBytes 2 h.etype.toNat) := by
  simp only [HeaderBank.link, holdsAt_append, List.length_append, beBytes_length, and_assoc, Nat.reduceAdd]

theorem holdsAt_net {byte : Nat → Byte} {h : HeaderBank} : HoldsAt byte 16 h.net ↔
    byte 16 = h.versionByte ∧ byte 17 = h.ttl ∧ byte 18 = h.proto ∧
      HoldsAt byte 19 (beBytes 4 h.sip.toNat) ∧ HoldsAt byte 23 (beBytes 4 h.dip.toNat) := by
  simp only [HeaderBank.net, holdsAt_append, holdsAt_singleton, List.length_append, List.length_singleton,
    beBytes_length, and_assoc, Nat.reduceAdd]

theorem holdsAt_transFixed {byte : Nat → Byte} {h : HeaderBank} : HoldsAt byte 27 h.transFixed ↔
    HoldsAt byte 27 (beBytes 2 h.sport.toNat) ∧ HoldsAt byte 29 (beBytes 2 h.dport.toNat) ∧
      HoldsAt byte 31 (beBytes 4 h.seqNum.toNat) ∧ HoldsAt byte 35 (beBytes 4 h.ackNum.toNat) ∧
      byte 39 = h.flagsByte := by
  simp only [HeaderBank.transFixed, holdsAt_append, holdsAt_singleton, List.length_append, beBytes_length, and_assoc,
    Nat.reduceAdd]

theorem holdsAt_app {byte : Nat → Byte} {h : HeaderBank} {ct : List Byte} : HoldsAt byte 42 (h.app ct) ↔
    HoldsAt byte 42 ct ∧ byte (42 + ct.length) = 0#8 ∧
      HoldsAt byte (43 + ct.length) (beBytes 4 h.appLen.toNat) := by
  simp only [HeaderBank.app, holdsAt_append, holdsAt_singleton, List.length_append, List.length_singleton, and_assoc]
  rw [show 42 + (ct.length + 1) = 43 + ct.length by omega]

theorem holdsAt_frameBody {byte : Nat → Byte} {h : HeaderBank} {ct pl : List Byte} :
    HoldsAt byte 16 (frameBody h ct pl) ↔
      HoldsAt byte 16 h.net ∧ HoldsAt byte 27 h.transFixed ∧
        HoldsAt byte 40 (beBytes 2 (frameChecksum h pl).toNat) ∧ HoldsAt byte 42 (h.app ct) ∧
        HoldsAt byte (47 + ct.length) pl := by
  simp only [frameBody, HeaderBank.trans, holdsAt_append, List.length_append, HeaderBank.net_length,
    HeaderBank.transFixed_length, HeaderBank.app_length, beBytes_length, and_assoc, Nat.reduceAdd]
  rw [show 16 + (26 + (ct.length + 5)) = 47 + ct.length by omega]

theorem holdsAt_encodeFrame {byte : Nat → Byte} {h : HeaderBank} {ct pl : List Byte} :
    HoldsAt byte 0 (encodeFrame h ct pl) ↔
      HoldsAt byte 0 h.link ∧ HoldsAt byte 14 (beBytes 2 (frameFcs h ct pl).toNat) ∧
        HoldsAt byte 16 (frameBody h ct pl) := by
  simp only [encodeFrame, holdsAt_append, List.length_append, HeaderBank.link_length, beBytes_length, and_assoc,
    Nat.reduceAdd]

theorem frameBody_length (h : HeaderBank) (ct pl : List Byte) :
    (frameBody h ct pl).length = 31 + ct.length + pl.length := by
  simp only [frameBody, List.length_append, HeaderBank.net_length, HeaderBank.trans_length, HeaderBank.app_length]
  omega

/-- The version stands in the top nibble of its byte (R64). -/
theorem HeaderBank.versionByte_toNat (h : HeaderBank) : h.versionByte.toNat = h.ver.toNat * 16 := by
  have := h.ver.isLt
  simp only [HeaderBank.versionByte, BitVec.toNat_shiftLeft, BitVec.toNat_setWidth, Nat.shiftLeft_eq]
  omega

/-- The flags byte keeps the low three bits of H_FLAGS (R65). -/
theorem HeaderBank.flagsByte_toNat (h : HeaderBank) : h.flagsByte.toNat = h.flags.toNat % 8 :=
  Nat.and_two_pow_sub_one_eq_mod h.flags.toNat 3

/-! ## The frame that ENCODE leaves in OMEM (R126) -/

/-- An ENCODE that completes with ERR = 0 wrote its frame, and its contentType holds no 0x00. -/
theorem execEncode_noError {s t : State} (h : exec .encode s = .next t) (herr : t.status.err = .noError) :
    0#8 ∉ s.regionA ∧ t = complete .noError (writeEncoded s) := by
  rcases execEncode_cases h with ⟨_, rfl⟩ | ⟨_, _, _, rfl⟩ | ⟨_, _, _, _, rfl⟩ | ⟨_, _, hct, _, ht⟩
  · cases herr
  · cases herr
  · cases herr
  · exact ⟨hct, ht⟩

/-- OMEM after a successful ENCODE: the frame at offset 0, and every other byte as before. -/
theorem omemByte_writeEncoded (s : State) (code : ErrCode) (x : Nat) :
    (complete code (writeEncoded s)).omemByte x =
      (s.memWriteOmem 0 (encodeFrame s.hdr s.regionA s.regionB)).omemByte x := by
  simp only [State.omemByte, complete_omem, complete_epoch, writeEncoded_omem, writeEncoded_epoch, memWriteOmem_omem,
    memWriteOmem_epoch]

theorem holdsAt_writeEncoded (s : State) (code : ErrCode) :
    HoldsAt (complete code (writeEncoded s)).omemByte 0 (encodeFrame s.hdr s.regionA s.regionB) := by
  refine readBytes_eq rfl fun k hk => ?_
  rw [omemByte_writeEncoded, omemByte_memWriteOmem, dif_pos (by omega)]
  simp

theorem omemByte_writeEncoded_of_le {s : State} {code : ErrCode} {x : Nat}
    (h : 47 + s.aLen.toNat + s.bLen.toNat ≤ x) :
    (complete code (writeEncoded s)).omemByte x = s.omemByte x := by
  rw [omemByte_writeEncoded, omemByte_memWriteOmem, dif_neg]
  rw [encodeFrame_length, regionA_length, regionB_length, frameLength]
  omega

/-! ## The statements -/

/-- Settles O37: the frame stands at offset 0, each header is read off part by part, and each part is read back from
its big-endian bytes. -/
theorem encodedFrameLayout : Obligations.EncodedFrameLayout := by
  rintro s t h herr c p rd rfl rfl rfl
  obtain ⟨hnul, rfl⟩ := execEncode_noError h herr
  obtain ⟨hlink, hfcs, hbody⟩ := holdsAt_encodeFrame.mp (holdsAt_writeEncoded s .noError)
  obtain ⟨hsmacHi, hsmacLo, hdmacHi, hdmacLo, hetype⟩ := holdsAt_link.mp hlink
  obtain ⟨hnet, htrans, hck, happ, hpl⟩ := holdsAt_frameBody.mp hbody
  obtain ⟨hver, httl, hproto, hsip, hdip⟩ := holdsAt_net.mp hnet
  obtain ⟨hsport, hdport, hseq, hack, hflags⟩ := holdsAt_transFixed.mp htrans
  obtain ⟨hct, hzero, happLen⟩ := holdsAt_app.mp happ
  rw [regionA_length] at hzero happLen hpl
  simp only [beValue_readBytes_one, hver, httl, hproto, hflags, HeaderBank.versionByte_toNat,
    HeaderBank.flagsByte_toNat, complete_fcsCalc, complete_ckCalc, writeEncoded_fcsCalc, writeEncoded_ckCalc]
  refine ⟨hsmacHi.beValue_eq rfl, hsmacLo.beValue_eq rfl, hdmacHi.beValue_eq rfl, hdmacLo.beValue_eq rfl,
    hetype.beValue_eq rfl, hfcs.beValue_eq rfl, trivial, trivial, trivial, hsip.beValue_eq rfl, hdip.beValue_eq rfl,
    hsport.beValue_eq rfl, hdport.beValue_eq rfl, hseq.beValue_eq rfl, hack.beValue_eq rfl, trivial,
    hck.beValue_eq rfl, fun k hk => ?_, hzero, happLen.beValue_eq rfl, fun k hk => hpl.byte_eq hk,
    fun x hx => omemByte_writeEncoded_of_le hx⟩
  have hbyte := HoldsAt.byte_eq (g := s.imemByte) hct hk
  refine ⟨hbyte, fun h0 => hnul ?_⟩
  rw [hbyte] at h0
  exact List.mem_map.mpr ⟨_, List.mem_range'_1.mpr ⟨Nat.le_add_right .., by omega⟩, h0⟩

/-- Settles O38: the bytes left in OMEM are the operands of the checksum and of the CRC that ENCODE computed. -/
theorem encodedFrameIntegrity : Obligations.EncodedFrameIntegrity := by
  intro s t h herr
  obtain ⟨_, rfl⟩ := execEncode_noError h herr
  obtain ⟨hlink, hfcs, hbody⟩ := holdsAt_encodeFrame.mp (holdsAt_writeEncoded s .noError)
  obtain ⟨_, htrans, hck, _, hpl⟩ := holdsAt_frameBody.mp hbody
  rw [regionA_length] at hpl
  constructor
  · rw [hck.beValue_eq rfl, htrans.readBytes_eq (HeaderBank.transFixed_length _), hpl.readBytes_eq (regionB_length s),
      frameChecksum, HeaderBank.pseudo]
  · rw [hfcs.beValue_eq rfl, hlink.readBytes_eq (HeaderBank.link_length _),
      hbody.readBytes_eq (by rw [frameBody_length, regionA_length, regionB_length]), frameFcs]

/-- Settles O23: a word that is no encoding is accepted as ILLEGAL, and the core's turn completes it. -/
theorem illegalWordCompletesWithIllegalCmd : Obligations.IllegalWordCompletesWithIllegalCmd := by
  intro s w rest hr hp hw hscript
  have hne : ∀ i, w ≠ encode i := by
    rcases hw with hfields | hne
    · rintro i rfl
      exact encode_fields_legal i hfields
    · exact hne
  have hillegal : opcodeOf w = .illegal := (opcodeOf_eq_illegal_iff w).mpr hne
  have hpend : (acceptCommand w s).pend = some .illegal := by rw [acceptCommand_pend, hillegal]
  exact ⟨_, step_accept hr hp hscript, hpend, rfl, step_illegal hr hpend (.inr rfl)⟩

end Sys2Proof.Machine
end

section
/-! SUPPORT. The big-endian primitives `be_N` and `rd_be` (40_primitives.md section 1): the bytes, their value as a
positional sum, and the inverse. Then the statement of that part. -/

namespace Sys2Proof.Machine

/-! ## The bytes of `be_N` (R90) -/

/-- A byte keeps the low eight bits of a number, so R90's mask changes nothing. -/
theorem ofNat_byte_and_mask (x : Nat) : BitVec.ofNat 8 (x &&& 0xFF) = BitVec.ofNat 8 x := by
  apply BitVec.eq_of_toNat_eq
  rw [BitVec.toNat_ofNat, BitVec.toNat_ofNat, Nat.and_two_pow_sub_one_eq_mod x 8, Nat.mod_mod]

theorem byteAt_eq_getElem {bs : List Byte} {k : Nat} (h : k < bs.length) : byteAt bs k = bs[k] :=
  List.getD_eq_getElem bs 0#8 h

theorem byteAt_beBytes {n k : Nat} (v : Nat) (h : k < n) :
    byteAt (beBytes n v) k = BitVec.ofNat 8 ((v >>> (8 * (n - 1 - k))) &&& 0xFF) := by
  have hk : k < (beBytes n v).length := by rwa [beBytes_length]
  rw [byteAt_eq_getElem hk, beBytes_getElem n v k hk, ofNat_byte_and_mask]

/-! ## `rd_be` as a positional sum (R92) -/

@[simp] theorem byteAt_cons_zero (b : Byte) (bs : List Byte) : byteAt (b :: bs) 0 = b := rfl

@[simp] theorem byteAt_cons_succ (b : Byte) (bs : List Byte) (k : Nat) : byteAt (b :: bs) (k + 1) = byteAt bs k := rfl

theorem byteAt_slice (bs : List Byte) {i j k : Nat} (h : i + k < j) : byteAt (slice bs i j) k = byteAt bs (i + k) := by
  simp [byteAt, slice, h]

theorem two_pow_eight_mul (n : Nat) : 2 ^ (8 * n) = 256 ^ n :=
  pow_mul 2 8 n

/-- The byte at index k of n bytes weighs `256 ^ (n - 1 - k)`; the first byte of `b :: bs` is the sum's term 0. -/
theorem beValue_eq_sum (bs : List Byte) :
    beValue bs = ∑ k ∈ Finset.range bs.length, (byteAt bs k).toNat <<< (8 * (bs.length - 1 - k)) := by
  induction bs with
  | nil => rfl
  | cons b bs ih =>
    have hfirst : b.toNat * 256 ^ bs.length = b.toNat <<< (8 * bs.length) := by
      rw [Nat.shiftLeft_eq, two_pow_eight_mul]
    have hweight : ∀ k, bs.length - 1 - k = bs.length - (k + 1) := by omega
    rw [beValue_cons, ih, hfirst, List.length_cons, Finset.sum_range_succ', add_comm]
    simp only [byteAt_cons_succ, byteAt_cons_zero, hweight, Nat.add_sub_cancel, Nat.sub_zero]

theorem rdBe_eq_sum {bs : List Byte} {i n : Nat} (h : i + n ≤ bs.length) :
    rdBe bs i n = ∑ k ∈ Finset.range n, (byteAt bs (i + k)).toNat <<< (8 * (n - 1 - k)) := by
  have hlen : (slice bs i (i + n)).length = n := by rw [slice_length]; omega
  rw [rdBe, beValue_eq_sum, hlen]
  refine Finset.sum_congr rfl fun k hk => ?_
  rw [byteAt_slice bs (Nat.add_lt_add_left (Finset.mem_range.mp hk) i)]

/-! ## `rd_be` undoes `be_N` (R92) -/

theorem rdBe_zero_length (bs : List Byte) : rdBe bs 0 bs.length = beValue bs := by
  simp [rdBe, slice]

theorem rdBe_beBytes (n v : Nat) : rdBe (beBytes n v) 0 n = v % 2 ^ (8 * n) := by
  calc rdBe (beBytes n v) 0 n
      = beValue (beBytes n v) := by simpa using rdBe_zero_length (beBytes n v)
    _ = v % 256 ^ n := beValue_beBytes n v
    _ = v % 2 ^ (8 * n) := by rw [two_pow_eight_mul]

/-! ## The statement -/

/-- Settles O28: the bytes of `be_N` one by one, its truncation, the positional sum, and the inverse. -/
theorem bigEndianPrimitives : Obligations.BigEndianPrimitives :=
  ⟨fun n v => ⟨beBytes_length n v, fun _ hk => byteAt_beBytes v hk⟩,
    fun _ v => (beBytes_mod le_rfl v).symm,
    fun _ _ _ h => rdBe_eq_sum h,
    rdBe_beBytes⟩

end Sys2Proof.Machine
end

section
/-! SUPPORT. The Internet checksum (41_checksum.md): the end-around carry, the folded sum as the representative of the
plain word sum modulo 0xFFFF, and the checksum as its complement. Then the statements of that part. -/

namespace Sys2Proof.Machine

/-! ## One fold (R100, R102) -/

theorem foldCarry_le {n : Nat} (h : n ≤ 0x1FFFE) : foldCarry n ≤ 0xFFFF := by
  unfold foldCarry
  omega

theorem foldCarry_eq_zero_iff (n : Nat) : foldCarry n = 0 ↔ n = 0 := by
  unfold foldCarry
  omega

/-- The carry leaves at weight 0x10000 and comes back at weight 1, which is the same modulo 0xFFFF. -/
theorem foldCarry_mod (n : Nat) : foldCarry n % 0xFFFF = n % 0xFFFF := by
  unfold foldCarry
  omega

theorem bigEndianWord_le (hi lo : Byte) : hi.toNat * 256 + lo.toNat ≤ 0xFFFF := by
  have := hi.isLt
  have := lo.isLt
  omega

/-! ## The folded sum (R102, R104) -/

theorem foldedSum_le (bs : List Byte) {sum : Nat} (h : sum ≤ 0xFFFF) : foldedSum sum bs ≤ 0xFFFF := by
  induction sum, bs using foldedSum.induct with
  | case1 sum => exact h
  | case2 sum hi =>
    have := hi.isLt
    exact foldCarry_le (by omega)
  | case3 sum hi lo rest ih =>
    have := bigEndianWord_le hi lo
    exact ih (foldCarry_le (by omega))

theorem foldedSum_eq_zero_iff (sum : Nat) (bs : List Byte) : foldedSum sum bs = 0 ↔ sum + wordSum bs = 0 := by
  induction sum, bs using foldedSum.induct with
  | case1 sum => rfl
  | case2 sum hi => exact foldCarry_eq_zero_iff _
  | case3 sum hi lo rest ih =>
    have := foldCarry_eq_zero_iff (sum + (hi.toNat * 256 + lo.toNat))
    rw [foldedSum, ih, wordSum]
    omega

theorem foldedSum_mod (sum : Nat) (bs : List Byte) : foldedSum sum bs % 0xFFFF = (sum + wordSum bs) % 0xFFFF := by
  induction sum, bs using foldedSum.induct with
  | case1 sum => rfl
  | case2 sum hi => exact foldCarry_mod _
  | case3 sum hi lo rest ih =>
    have := foldCarry_mod (sum + (hi.toNat * 256 + lo.toNat))
    rw [foldedSum, ih, wordSum]
    omega

theorem foldedSum_zero_mod (bs : List Byte) : foldedSum 0 bs % 0xFFFF = wordSum bs % 0xFFFF := by
  rw [foldedSum_mod, Nat.zero_add]

theorem wordSum_eq_zero_iff (bs : List Byte) : wordSum bs = 0 ↔ ∀ b ∈ bs, b = 0#8 := by
  induction bs using wordSum.induct with
  | case1 => simp [wordSum]
  | case2 hi =>
    rw [wordSum, List.forall_mem_singleton, BitVec.toNat_eq, BitVec.toNat_ofNat]
    omega
  | case3 hi lo rest ih =>
    rw [wordSum, List.forall_mem_cons, List.forall_mem_cons, ← ih, BitVec.toNat_eq, BitVec.toNat_eq,
      BitVec.toNat_ofNat]
    omega

theorem foldedSum_zero_eq_zero_iff (bs : List Byte) : foldedSum 0 bs = 0 ↔ ∀ b ∈ bs, b = 0#8 := by
  rw [foldedSum_eq_zero_iff, Nat.zero_add, wordSum_eq_zero_iff]

/-- The folded sum is fixed by the word sum: the only two 16-bit values congruent modulo 0xFFFF are 0 and 0xFFFF, and
it is 0 only when the word sum is. -/
theorem foldedSum_congr {bs cs : List Byte} (h : wordSum bs = wordSum cs) : foldedSum 0 bs = foldedSum 0 cs := by
  have hb := foldedSum_le bs (Nat.zero_le _)
  have hc := foldedSum_le cs (Nat.zero_le _)
  have hzero : foldedSum 0 bs = 0 ↔ foldedSum 0 cs = 0 := by
    rw [foldedSum_eq_zero_iff, foldedSum_eq_zero_iff, h]
  have hmod : foldedSum 0 bs % 0xFFFF = foldedSum 0 cs % 0xFFFF := by
    rw [foldedSum_zero_mod, foldedSum_zero_mod, h]
  omega

/-! ## The checksum is the complement of the folded sum (R100, R102) -/

theorem inetChecksum_toNat (bs : List Byte) : (inetChecksum bs).toNat = 0xFFFF - foldedSum 0 bs := by
  have := foldedSum_le bs (Nat.zero_le _)
  rw [inetChecksum, BitVec.toNat_not, BitVec.toNat_ofNat, Nat.mod_eq_of_lt (by omega)]

theorem inetChecksum_eq_iff (bs cs : List Byte) :
    inetChecksum bs = inetChecksum cs ↔ foldedSum 0 bs = foldedSum 0 cs := by
  have := foldedSum_le bs (Nat.zero_le _)
  have := foldedSum_le cs (Nat.zero_le _)
  rw [BitVec.toNat_eq, inetChecksum_toNat, inetChecksum_toNat]
  omega

theorem inetChecksum_eq_zero_iff (bs : List Byte) : inetChecksum bs = 0#16 ↔ foldedSum 0 bs = 0xFFFF := by
  have := foldedSum_le bs (Nat.zero_le _)
  rw [BitVec.toNat_eq, inetChecksum_toNat, BitVec.toNat_ofNat]
  omega

theorem inetChecksum_eq_ones_iff (bs : List Byte) : inetChecksum bs = 0xFFFF#16 ↔ ∀ b ∈ bs, b = 0#8 := by
  have := foldedSum_le bs (Nat.zero_le _)
  rw [← foldedSum_zero_eq_zero_iff, BitVec.toNat_eq, inetChecksum_toNat, BitVec.toNat_ofNat]
  omega

/-! ## The order of the words, and a change of one byte (R104) -/

theorem wordSum_flatMap (ws : List (Byte × Byte)) :
    wordSum (ws.flatMap fun w => [w.1, w.2]) = (ws.map fun w => w.1.toNat * 256 + w.2.toNat).sum := by
  induction ws with
  | nil => rfl
  | cons w ws ih => rw [List.map_cons, List.sum_cons, ← ih]; rfl

/-- The weight of the byte at index `k` in the word sum: the even indices hold the high bytes. -/
def byteWeight (k : Nat) : Nat :=
  if k % 2 = 0 then 256 else 1

@[simp] theorem byteWeight_zero : byteWeight 0 = 256 := rfl

@[simp] theorem byteWeight_one : byteWeight 1 = 1 := rfl

@[simp] theorem byteWeight_add_two (k : Nat) : byteWeight (k + 2) = byteWeight k := by
  rw [byteWeight, Nat.add_mod_right, byteWeight]

theorem byteWeight_cases (k : Nat) : byteWeight k = 256 ∨ byteWeight k = 1 :=
  ite_eq_or_eq ..

/-- Replacing the byte at index `k` takes the old byte out of the word sum and puts the new one in, both at the
weight of `k`. -/
theorem wordSum_set (b : Byte) {bs : List Byte} {k : Nat} (h : k < bs.length) :
    wordSum (bs.set k b) + (byteAt bs k).toNat * byteWeight k = wordSum bs + b.toNat * byteWeight k := by
  induction bs using wordSum.induct generalizing k with
  | case1 => cases h
  | case2 hi =>
    obtain rfl : k = 0 := by simpa using h
    simp [wordSum, Nat.add_comm]
  | case3 hi lo rest ih =>
    match k with
    | 0 =>
      simp only [List.set_cons_zero, byteAt_cons_zero, wordSum, byteWeight_zero]
      omega
    | 1 =>
      simp only [List.set_cons_succ, List.set_cons_zero, byteAt_cons_succ, byteAt_cons_zero, wordSum, byteWeight_one]
      omega
    | k + 2 =>
      have hrest := ih (k := k) (by simpa using h)
      simp only [List.set_cons_succ, byteAt_cons_succ, wordSum, byteWeight_add_two]
      omega

/-- Two different bytes at one index move the word sum by less than 0xFFFF and not by 0, so never by a multiple of
0xFFFF. -/
theorem inetChecksum_set_ne {b : Byte} {bs : List Byte} {k : Nat} (h : k < bs.length) (hb : b ≠ byteAt bs k) :
    inetChecksum (bs.set k b) ≠ inetChecksum bs := by
  intro heq
  have hmod : wordSum (bs.set k b) % 0xFFFF = wordSum bs % 0xFFFF := by
    rw [← foldedSum_zero_mod, ← foldedSum_zero_mod, (inetChecksum_eq_iff _ _).mp heq]
  have hset := wordSum_set b h
  have hne : b.toNat ≠ (byteAt bs k).toNat := fun h => hb (BitVec.eq_of_toNat_eq h)
  have := b.isLt
  have := (byteAt bs k).isLt
  rcases byteWeight_cases k with hw | hw <;> rw [hw] at hset <;> omega

theorem flipped_byte_ne (b : Byte) {j : Nat} (h : j < 8) : b ^^^ (1#8 <<< j) ≠ b := by
  intro heq
  have hbit := congrArg (·.getLsbD j) heq
  simp [h] at hbit

/-! ## CKSUM (R101) -/

theorem exec_cksum_legal {s : State} (h : s.regionALegal = true) :
    exec .cksum s = .next (complete .noError { s with result := inetChecksum s.regionA }) := by
  rw [exec, execCksum, if_pos h]

theorem exec_cksum_range {s : State} (h : ¬s.regionALegal = true) :
    exec .cksum s = .next (complete .range s) := by
  rw [exec, execCksum, if_neg h, raiseError_eq]

/-! ## The statements -/

/-- Settles O30: one fold keeps a sum in 16 bits and meets 0 only at 0, and the checksum is the complement of the
folded sum. -/
theorem checksumFoldAndZeroCases : Obligations.ChecksumFoldAndZeroCases := by
  refine ⟨fun sum w hsum hw => ?_, fun bs => ⟨foldedSum_le bs (Nat.zero_le _), foldedSum_zero_eq_zero_iff bs,
    inetChecksum_eq_ones_iff bs, inetChecksum_eq_zero_iff bs⟩⟩
  have htotal : sum + w ≤ 0x1FFFE := by omega
  exact ⟨htotal, foldCarry_le htotal, (foldCarry_eq_zero_iff _).trans Nat.add_eq_zero_iff⟩

/-- Settles O31: the word sum fixes the folded sum, a permutation of the words keeps the word sum, and a flipped byte
is a different byte. -/
theorem checksumDetectsEverySingleBitFlip : Obligations.ChecksumDetectsEverySingleBitFlip := by
  refine ⟨foldedSum_zero_mod, fun ws vs hperm => ?_, fun bs k j hk hj => ?_⟩
  · refine (inetChecksum_eq_iff _ _).mpr (foldedSum_congr ?_)
    rw [wordSum_flatMap, wordSum_flatMap, (hperm.map _).sum_eq]
  · exact inetChecksum_set_ne hk (flipped_byte_ne _ hj)

/-- Settles O29: the corner cases follow from the zero cases of R102, and CKSUM's two outcomes from the legality of
region A. -/
theorem cksumCompletes : Obligations.CksumCompletes := by
  refine ⟨(decodeCommand_eq_ok_iff _ _).mpr rfl,
    fun n => (inetChecksum_eq_ones_iff _).mpr fun _ hb => List.eq_of_mem_replicate hb, by decide,
    fun bs => (inetChecksum_eq_zero_iff bs).mpr, by decide, by decide, fun s => ⟨fun h => ?_, fun h => ?_⟩⟩
  · exact exec_cksum_legal ((regionALegal_iff s).mpr h)
  · exact exec_cksum_range fun hlegal => Nat.not_le_of_lt h ((regionALegal_iff s).mp hlegal)

end Sys2Proof.Machine
end

section
/-! SUPPORT. The CRC-16 (42_crc16.md): each iteration of the loop is linear and injective on the register, so the loop
is affine in the input and every change of one byte reaches the result. Then the statements of that part. -/

namespace Sys2Proof.Machine

/-! ## One iteration (R110) -/

/-- What an iteration adds to the shifted register, by the bit shifted out of the top. -/
def crcFeedback (top : Bool) : Half :=
  if top then 0x1021#16 else 0#16

theorem crcBit_eq_xor_feedback (r : Half) : crcBit r = (r <<< 1) ^^^ crcFeedback r.msb := by
  unfold crcBit crcFeedback
  split
  · rfl
  · exact BitVec.xor_zero.symm

theorem crcFeedback_xor (a b : Bool) : crcFeedback (a ^^ b) = crcFeedback a ^^^ crcFeedback b := by
  decide +revert

/-- The polynomial 0x1021 is odd, so the bit shifted out of the top comes back at the bottom. -/
theorem crcFeedback_getLsbD_zero (top : Bool) : (crcFeedback top).getLsbD 0 = top := by
  decide +revert

theorem crcBit_xor (r q : Half) : crcBit (r ^^^ q) = crcBit r ^^^ crcBit q := by
  simp only [crcBit_eq_xor_feedback, BitVec.msb_xor, BitVec.shiftLeft_xor_distrib, crcFeedback_xor]
  ac_rfl

theorem crcBit_getLsbD_zero (r : Half) : (crcBit r).getLsbD 0 = r.msb := by
  rw [crcBit_eq_xor_feedback, BitVec.getLsbD_xor, crcFeedback_getLsbD_zero]
  simp

/-- An iteration loses nothing: its bottom bit is the old top bit, which tells whether 0x1021 was added, and the rest
is the shifted register. -/
theorem crcBit_injective : Function.Injective crcBit := by
  intro r q h
  have hmsb : r.msb = q.msb := by rw [← crcBit_getLsbD_zero, h, crcBit_getLsbD_zero]
  rw [crcBit_eq_xor_feedback, crcBit_eq_xor_feedback, hmsb] at h
  have hshift : r <<< 1 = q <<< 1 := (BitVec.xor_left_inj _).mp h
  refine BitVec.eq_of_getLsbD_eq fun i hi => ?_
  by_cases htop : i = 15
  · subst htop
    exact hmsb
  · have hbit := congrArg (·.getLsbD (i + 1)) hshift
    have hlt : i + 1 < 16 := by omega
    simpa [hlt, BitVec.getLsbD_eq_getElem hi] using hbit

/-! ## One byte (R110) -/

theorem crcByte_eq_iterate (r : Half) (b : Byte) : crcByte r b = crcBit^[8] (r ^^^ (b.setWidth 16 <<< 8)) := rfl

theorem crcByte_xor (r q : Half) (b c : Byte) : crcByte (r ^^^ q) (b ^^^ c) = crcByte r b ^^^ crcByte q c := by
  have hinput : (r ^^^ q) ^^^ ((b ^^^ c).setWidth 16 <<< 8) =
      (r ^^^ (b.setWidth 16 <<< 8)) ^^^ (q ^^^ (c.setWidth 16 <<< 8)) := by
    rw [BitVec.setWidth_xor, BitVec.shiftLeft_xor_distrib]
    ac_rfl
  simp only [crcByte, hinput, crcBit_xor]

/-- A byte maps different registers to different registers. -/
theorem crcByte_left_injective (b : Byte) : Function.Injective (crcByte · b) := by
  intro r q (h : crcByte r b = crcByte q b)
  rw [crcByte_eq_iterate, crcByte_eq_iterate] at h
  exact (BitVec.xor_left_inj _).mp (crcBit_injective.iterate 8 h)

/-- Different bytes leave different registers behind. -/
theorem crcByte_right_injective (r : Half) : Function.Injective (crcByte r) := by
  intro b c h
  rw [crcByte_eq_iterate, crcByte_eq_iterate] at h
  have hhigh := (BitVec.xor_right_inj _).mp (crcBit_injective.iterate 8 h)
  refine BitVec.eq_of_getLsbD_eq fun i hi => ?_
  have hbit := congrArg (·.getLsbD (i + 8)) hhigh
  have hlt : i + 8 < 16 := by omega
  simpa [hlt] using hbit

/-! ## The loop (R110, R113, R114) -/

theorem crcFrom_xor (r q : Half) {bs cs : List Byte} (h : bs.length = cs.length) :
    crcFrom r bs ^^^ crcFrom q cs = crcFrom (r ^^^ q) (xorBytes bs cs) := by
  induction bs generalizing r q cs with
  | nil =>
    obtain rfl := List.length_eq_zero_iff.mp h.symm
    rfl
  | cons b bs ih =>
    cases cs with
    | nil => cases h
    | cons c cs =>
      calc crcFrom (crcByte r b) bs ^^^ crcFrom (crcByte q c) cs
        _ = crcFrom (crcByte r b ^^^ crcByte q c) (xorBytes bs cs) := ih _ _ (Nat.succ.inj h)
        _ = crcFrom (crcByte (r ^^^ q) (b ^^^ c)) (xorBytes bs cs) := by rw [crcByte_xor]

theorem crcFrom_injective (bs : List Byte) : Function.Injective (crcFrom · bs) := by
  induction bs with
  | nil => exact fun _ _ h => h
  | cons b bs ih => exact ih.comp (crcByte_left_injective b)

/-- Before index `k` the two runs agree, the different bytes part them there, and no later byte joins them again. -/
theorem crcFrom_set_ne (r : Half) {b : Byte} {bs : List Byte} {k : Nat} (h : k < bs.length) (hb : b ≠ byteAt bs k) :
    crcFrom r (bs.set k b) ≠ crcFrom r bs := by
  induction bs generalizing r k with
  | nil => cases h
  | cons c bs ih =>
    cases k with
    | zero => exact (crcFrom_injective bs).ne ((crcByte_right_injective r).ne hb)
    | succ k => exact ih (crcByte r c) (Nat.lt_of_succ_lt_succ h) hb

/-! ## CRC16 (R111) -/

theorem exec_crc16_legal {s : State} (h : s.regionALegal = true) :
    exec .crc16 s = .next (complete .noError { s with result := crc16 s.regionA }) := by
  rw [exec, execCrc16, if_pos h]

theorem exec_crc16_range {s : State} (h : ¬s.regionALegal = true) :
    exec .crc16 s = .next (complete .range s) := by
  rw [exec, execCrc16, if_neg h, raiseError_eq]

/-! ## The statements -/

/-- Settles O33: the loop is linear in the register and the input together, and two equal initial values cancel. -/
theorem crcIsAffine : Obligations.CrcIsAffine :=
  ⟨rfl, fun _ _ => crcFrom_xor _ _⟩

/-- Settles O34: a flipped byte is a different byte, and the loop keeps the difference to the end. -/
theorem crcDetectsEverySingleBitFlip : Obligations.CrcDetectsEverySingleBitFlip :=
  fun _ _ _ hk hj => crcFrom_set_ne _ hk (flipped_byte_ne _ hj)

/-- Settles O32: the fixed values of R111 are computed, and CRC16's two outcomes follow from the legality of
region A. -/
theorem crc16Completes : Obligations.Crc16Completes := by
  refine ⟨(decodeCommand_eq_ok_iff _ _).mpr rfl, rfl, by decide +kernel, by decide +kernel, by decide +kernel,
    fun s => ⟨fun h => ?_, fun h => ?_⟩⟩
  · exact exec_crc16_legal ((regionALegal_iff s).mpr h)
  · exact exec_crc16_range fun hlegal => Nat.not_le_of_lt h ((regionALegal_iff s).mp hlegal)

end Sys2Proof.Machine
end

section
/-! SUPPORT. The ENCODE command (43_encode.md): its four outcomes in the order of R164, each under the condition that
leads to it, and what the outcome depends on. Then the statements of that part. -/

namespace Sys2Proof.Machine

/-! ## The contentType (R130) -/

theorem mem_readBytes_iff {byte : Nat → Byte} {a n : Nat} {b : Byte} :
    b ∈ readBytes byte a n ↔ ∃ k < n, byte (a + k) = b := by
  simp [List.mem_iff_getElem]

theorem mem_regionA_iff {s : State} {b : Byte} :
    b ∈ s.regionA ↔ ∃ k < s.aLen.toNat, s.imemByte (s.aOff.toNat + k) = b :=
  mem_readBytes_iff

theorem not_mem_regionA_iff {s : State} {b : Byte} :
    b ∉ s.regionA ↔ ∀ k < s.aLen.toNat, s.imemByte (s.aOff.toNat + k) ≠ b := by
  simp [mem_regionA_iff]

theorem regionA_contains_zero_eq_false {s : State} (h : 0#8 ∉ s.regionA) : s.regionA.contains 0x00#8 = false := by
  simpa using h

/-! ## The four outcomes (R126, R130, R131, R164) -/

theorem exec_encode_range {s : State} (h : s.regionALegal = false ∨ s.regionBLegal = false) :
    exec .encode s = .next (complete .range s) := by
  rw [exec, execEncode, raiseError_eq]
  rcases h with hA | hB
  · rw [hA]
    rfl
  · rw [hB]
    split <;> rfl

theorem exec_encode_ctNul {s : State} (hA : s.regionALegal = true) (hB : s.regionBLegal = true)
    (hct : 0#8 ∈ s.regionA) : exec .encode s = .next (complete .ctNul s) := by
  rw [exec, execEncode, hA, hB, List.contains_iff_mem.mpr hct]
  rfl

theorem exec_encode_overflow {s : State} (hA : s.regionALegal = true) (hB : s.regionBLegal = true)
    (hct : 0#8 ∉ s.regionA) (hfit : ¬FrameFits s) :
    exec .encode s = .next (complete .overflow
      { s with frameLen := BitVec.ofNat 32 (frameLength s.aLen.toNat s.bLen.toNat) }) := by
  rw [exec, execEncode, hA, hB, regionA_contains_zero_eq_false hct, if_pos (Nat.lt_of_not_le hfit)]
  rfl

theorem exec_encode_noError {s : State} (hA : s.regionALegal = true) (hB : s.regionBLegal = true)
    (hct : 0#8 ∉ s.regionA) (hfit : FrameFits s) :
    exec .encode s = .next (complete .noError (writeEncoded s)) := by
  rw [exec, execEncode, hA, hB, regionA_contains_zero_eq_false hct, if_neg (Nat.not_lt_of_le hfit)]
  rfl

/-- The state that a successful ENCODE leaves, field by field (R126, R127). -/
theorem complete_writeEncoded (s : State) : complete .noError (writeEncoded s) = { s with
    omem := Memory.setBytes s.omem 0 (encodeFrame s.hdr s.regionA s.regionB)
    frameLen := BitVec.ofNat 32 (frameLength s.aLen.toNat s.bLen.toNat)
    ckCalc := frameChecksum s.hdr s.regionB
    ckStored := frameChecksum s.hdr s.regionB
    fcsCalc := frameFcs s.hdr s.regionA s.regionB
    fcsStored := frameFcs s.hdr s.regionA s.regionB
    result := frameFcs s.hdr s.regionA s.regionB
    pend := none
    status := { s.status with
      busy := false
      done := true
      err := .noError
      mtuOvf := mtuOverflow (frameLength s.aLen.toNat s.bLen.toNat) s.mtu } } := by
  simp only [complete, writeEncoded, State.memWriteOmem, Status.onComplete]

/-! ## What the outcome depends on (R132) -/

/-- The writes of a successful ENCODE look at MTU for MTU_OVF alone. -/
theorem writeEncoded_with_mtu (s : State) (m : Half) : writeEncoded { s with mtu := m } =
    { writeEncoded s with
      mtu := m
      status := { (writeEncoded s).status with
        mtuOvf := mtuOverflow (frameLength s.aLen.toNat s.bLen.toNat) m } } := by
  simp only [writeEncoded, State.memWriteOmem]
  rfl

/-- Neither the choice of the outcome nor any write but that of MTU_OVF looks at MTU. -/
theorem exec_encode_mtu {s t : State} (h : exec .encode s = .next t) (m : Half) :
    ∃ ovf, exec .encode { s with mtu := m } =
      .next { t with mtu := m, status := { t.status with mtuOvf := ovf } } := by
  rcases execEncode_cases h with ⟨hAB, rfl⟩ | ⟨hA, hB, hct, rfl⟩ | ⟨hA, hB, hct, hfit, rfl⟩ | ⟨hA, hB, hct, hfit, rfl⟩
  · exact ⟨_, exec_encode_range hAB⟩
  · exact ⟨_, exec_encode_ctNul hA hB hct⟩
  · exact ⟨_, exec_encode_overflow hA hB hct hfit⟩
  · refine ⟨mtuOverflow (frameLength s.aLen.toNat s.bLen.toNat) m, ?_⟩
    rw [exec_encode_noError (s := { s with mtu := m }) hA hB hct hfit, writeEncoded_with_mtu]
    rfl

theorem aLen_toNat_eq_of_regionA {s s' : State} (h : s.regionA = s'.regionA) : s.aLen.toNat = s'.aLen.toNat := by
  rw [← regionA_length, h, regionA_length]

theorem bLen_toNat_eq_of_regionB {s s' : State} (h : s.regionB = s'.regionB) : s.bLen.toNat = s'.bLen.toNat := by
  rw [← regionB_length, h, regionB_length]

/-- The bytes of OMEM inside the frame are those of the frame. -/
theorem omemByte_writeEncoded_of_lt {s : State} {code : ErrCode} {x : Nat}
    (h : x < 47 + s.aLen.toNat + s.bLen.toNat) :
    (complete code (writeEncoded s)).omemByte x = byteAt (encodeFrame s.hdr s.regionA s.regionB) x := by
  have hx : x < (encodeFrame s.hdr s.regionA s.regionB).length := by
    rwa [encodeFrame_length, regionA_length, regionB_length]
  rw [← holdsAt_writeEncoded s code, byteAt_readBytes _ hx, Nat.zero_add]

/-! ## The statements -/

/-- Settles O35: the conditions on the bytes are those of the successful outcome, whose writes are the frame, its
checksum, its FCS and its length. -/
theorem encodeCompletes : Obligations.EncodeCompletes := by
  rintro s hA hB hct hfit ct pl body ck fcs len rfl rfl rfl rfl rfl rfl
  rw [exec_encode_noError ((regionALegal_iff s).mpr hA) ((regionBLegal_iff s).mpr hB)
    (not_mem_regionA_iff.mpr hct) hfit, complete_writeEncoded]
  rfl

/-- Settles O36: the condition of each refusal, said of the bytes, is the one its outcome needs. -/
theorem encodeRefusesInOrder : Obligations.EncodeRefusesInOrder := by
  refine fun s => ⟨fun h => exec_encode_range ?_, fun hA hB => ⟨fun hct => ?_, fun hct hfit => ?_⟩⟩
  · rwa [← Bool.not_eq_true, ← Bool.not_eq_true, regionALegal_iff, regionBLegal_iff, Nat.not_le, Nat.not_le]
  · exact exec_encode_ctNul ((regionALegal_iff s).mpr hA) ((regionBLegal_iff s).mpr hB) (mem_regionA_iff.mpr hct)
  · exact exec_encode_overflow ((regionALegal_iff s).mpr hA) ((regionBLegal_iff s).mpr hB)
      (not_mem_regionA_iff.mpr hct) (Nat.not_le_of_lt hfit)

/-- Settles O39: MTU reaches MTU_OVF alone, and every result is a function of the header bank and the two regions, the
frame's bytes in OMEM too. -/
theorem encodeIsDeterministic : Obligations.EncodeIsDeterministic := by
  refine ⟨fun s t t' m h h' => ?_, fun s s' t t' hhdr hA hB h h' herr herr' => ?_⟩
  · obtain ⟨ovf, hm⟩ := exec_encode_mtu h m
    obtain rfl := Host.Outcome.next.inj (h'.symm.trans hm)
    rfl
  · obtain ⟨_, rfl⟩ := execEncode_noError h herr
    obtain ⟨_, rfl⟩ := execEncode_noError h' herr'
    have haLen := aLen_toNat_eq_of_regionA hA
    have hbLen := bLen_toNat_eq_of_regionB hB
    have hbytes : ∀ x < 47 + s.aLen.toNat + s.bLen.toNat,
        (complete .noError (writeEncoded s)).omemByte x = (complete .noError (writeEncoded s')).omemByte x := by
      intro x hx
      rw [omemByte_writeEncoded_of_lt hx, omemByte_writeEncoded_of_lt (haLen ▸ hbLen ▸ hx), hhdr, hA, hB]
    simpa [hhdr, hA, hB, haLen, hbLen] using hbytes

end Sys2Proof.Machine
end

section
/-! SUPPORT. The DECODE command (44_decode.md): what the decoder reads from a frame, said of the bytes of a source that
holds it; its outcomes; where its registers point; and what it reads from an encoded frame. Then the statements of that
part. -/

namespace Sys2Proof.Machine

/-! ## Bytes and numbers (R90 to R92) -/

/-- `be_N` gives back the bytes of a value that was read from N bytes. -/
theorem beBytes_beValue {n : Nat} {bs : List Byte} (h : bs.length = n) : beBytes n (beValue bs) = bs := by
  subst h
  induction bs with
  | nil => rfl
  | cons b bs ih =>
    have hlow : beBytes bs.length (beValue (b :: bs)) = beBytes bs.length (beValue bs) := by
      apply beBytes_congr
      rw [beValue_cons, two_pow_eight_mul, Nat.mul_add_mod_self_right]
    have hhigh : BitVec.ofNat 8 (beValue (b :: bs) >>> (8 * bs.length)) = b := by
      rw [beValue_cons, Nat.shiftRight_eq_div_pow, two_pow_eight_mul, Nat.mul_comm,
        Nat.mul_add_div (Nat.pow_pos (by decide)), Nat.div_eq_of_lt (beValue_lt bs), Nat.add_zero,
        BitVec.ofNat_toNat, BitVec.setWidth_eq]
    rw [List.length_cons, beBytes_succ, hlow, hhigh, ih]

/-- A 16-bit value equals a stored field when the numbers are equal. -/
theorem half_beq_ofNat (v : Half) {m : Nat} (h : m < 2 ^ 16) : (v == BitVec.ofNat 16 m) = decide (v.toNat = m) := by
  rw [Bool.beq_eq_decide_eq]
  congr 1
  rw [BitVec.toNat_eq, BitVec.toNat_ofNat, Nat.mod_eq_of_lt h]

theorem beValue_readBytes_two_lt (byte : Nat → Byte) (a : Nat) : beValue (readBytes byte a 2) < 2 ^ 16 := by
  simpa using beValue_lt (readBytes byte a 2)

/-! ## What the decoder reads (R140, R142, R145 to R147)

A frame `f` stands at offset `a` of a byte source; each part of `f` is then a read of the source. -/

/-- A sequence stands at offset 0 of its own bytes. -/
theorem holdsAt_byteAt (f : List Byte) : HoldsAt (byteAt f) 0 f :=
  readBytes_eq rfl fun k hk => by rw [Nat.zero_add, byteAt_eq_getElem hk]

theorem holdsAt_regionA (s : State) : HoldsAt s.imemByte s.aOff.toNat s.regionA := by
  rw [HoldsAt, regionA_length]
  rfl

section

variable {byte : Nat → Byte} {a : Nat} {f : List Byte}

/-- Reading a source from `a` on is reading the source that starts there. -/
theorem holdsAt_shift {i : Nat} {bs : List Byte} :
    HoldsAt (fun k => byte (a + k)) i bs ↔ HoldsAt byte (a + i) bs := by
  have hread : readBytes (fun k => byte (a + k)) i bs.length = readBytes byte (a + i) bs.length :=
    readBytes_congr fun k _ => by rw [Nat.add_assoc]
  rw [HoldsAt, hread, HoldsAt]

theorem HoldsAt.byteAt_eq (h : HoldsAt byte a f) {i : Nat} (hi : i < f.length) : byteAt f i = byte (a + i) := by
  rw [← byteAt_readBytes byte hi, h]

theorem HoldsAt.rdBe_eq (h : HoldsAt byte a f) {i k : Nat} (hk : i + k ≤ f.length) :
    rdBe f i k = beValue (readBytes byte (a + i) k) := by
  rw [← rdBe_readBytes byte hk, h]

theorem HoldsAt.beBytes_rdBe (h : HoldsAt byte a f) {i k : Nat} (hk : i + k ≤ f.length) :
    beBytes k (rdBe f i k) = readBytes byte (a + i) k := by
  rw [h.rdBe_eq hk, beBytes_beValue (readBytes_length ..)]

theorem HoldsAt.take_eq (h : HoldsAt byte a f) {i : Nat} (hi : i ≤ f.length) : f.take i = readBytes byte a i := by
  rw [← Nat.min_eq_left hi, ← take_readBytes, h, Nat.min_eq_left hi]

theorem HoldsAt.drop_eq (h : HoldsAt byte a f) (i : Nat) : f.drop i = readBytes byte (a + i) (f.length - i) := by
  rw [← drop_readBytes, h]

theorem HoldsAt.wellFormedAt_eq_some_iff (h : HoldsAt byte a f) {q : Nat} :
    wellFormedAt f = some q ↔
      42 ≤ q ∧ q + 5 ≤ f.length ∧ byte (a + q) = 0#8 ∧ ∀ k, 42 ≤ k → k < q → byte (a + k) ≠ 0#8 := by
  rw [Machine.wellFormedAt_eq_some_iff]
  refine and_congr_right fun _ => and_congr_right fun hq => and_congr ?_ (forall₃_congr fun k _ hk => ?_)
  · rw [h.byteAt_eq (by omega)]
  · rw [h.byteAt_eq (by omega)]

/-- The header bank, every field read as a number (R145). -/
theorem HoldsAt.parseHeader_eq (h : HoldsAt byte a f) {q : Nat} (hq : 42 ≤ q) (hlen : q + 5 ≤ f.length)
    {rd : Nat → Nat → Nat} (hrd : rd = fun o n => beValue (readBytes byte (a + o) n)) :
    parseHeader f q = {
      smacHi := BitVec.ofNat 32 (rd 0 4)
      smacLo := BitVec.ofNat 16 (rd 4 2)
      dmacHi := BitVec.ofNat 32 (rd 6 4)
      dmacLo := BitVec.ofNat 16 (rd 10 2)
      etype := BitVec.ofNat 16 (rd 12 2)
      ver := BitVec.ofNat 4 (rd 16 1 / 16)
      ttl := BitVec.ofNat 8 (rd 17 1)
      proto := BitVec.ofNat 8 (rd 18 1)
      sip := BitVec.ofNat 32 (rd 19 4)
      dip := BitVec.ofNat 32 (rd 23 4)
      sport := BitVec.ofNat 16 (rd 27 2)
      dport := BitVec.ofNat 16 (rd 29 2)
      seqNum := BitVec.ofNat 32 (rd 31 4)
      ackNum := BitVec.ofNat 32 (rd 35 4)
      flags := BitVec.ofNat 8 (rd 39 1)
      appLen := BitVec.ofNat 32 (rd (q + 1) 4) } := by
  have hfield : ∀ o n, o + n ≤ f.length → rdBe f o n = rd o n := fun o n ho => by rw [h.rdBe_eq ho, hrd]
  have hone : ∀ o, o < f.length → rd o 1 = (byteAt f o).toNat := fun o ho => by
    rw [← hfield o 1 ho, h.rdBe_eq ho, beValue_readBytes_one, h.byteAt_eq ho]
  have hbyte : ∀ o, o < f.length → byteAt f o = BitVec.ofNat 8 (rd o 1) := fun o ho => by
    rw [hone o ho, BitVec.ofNat_toNat, BitVec.setWidth_eq]
  have hnibble : (byteAt f 16 >>> 4).setWidth 4 = BitVec.ofNat 4 (rd 16 1 / 16) := by
    apply BitVec.eq_of_toNat_eq
    rw [hone 16 (by omega), BitVec.toNat_setWidth, BitVec.toNat_ushiftRight, BitVec.toNat_ofNat,
      Nat.shiftRight_eq_div_pow]
  rw [parseHeader, hnibble]
  simp (disch := omega) only [hfield, hbyte]

/-- The 13 bytes that the pseudo-header rebuilds stand together in the frame (R97, R146). -/
theorem HoldsAt.rebuiltPseudo_eq (h : HoldsAt byte a f) (hlen : 40 ≤ f.length) :
    rebuiltPseudo f = readBytes byte (a + 27) 13 ++ [0x00#8] := by
  have hsplit : readBytes byte (a + 27) 13 =
      readBytes byte (a + 27) 2 ++ readBytes byte (a + 29) 2 ++ readBytes byte (a + 31) 4
        ++ readBytes byte (a + 35) 4 ++ [byte (a + 39)] := by
    simp only [← readBytes_add byte (a + 27)]
    rfl
  rw [rebuiltPseudo, h.beBytes_rdBe (by omega), h.beBytes_rdBe (by omega), h.beBytes_rdBe (by omega),
    h.beBytes_rdBe (by omega), h.byteAt_eq (by omega), hsplit]

theorem HoldsAt.decodedChecksum_eq (h : HoldsAt byte a f) {q : Nat} (hlen : 40 ≤ f.length) :
    decodedChecksum f q = inetChecksum (readBytes byte (a + 27) 13 ++ [0x00#8] ++
      readBytes byte (a + (q + 5)) (f.length - (q + 5))) := by
  rw [decodedChecksum, h.rebuiltPseudo_eq hlen, framePayload, h.drop_eq]

theorem HoldsAt.storedChecksum_eq (h : HoldsAt byte a f) (hlen : 42 ≤ f.length) :
    storedChecksum f = BitVec.ofNat 16 (beValue (readBytes byte (a + 40) 2)) := by
  rw [storedChecksum, h.rdBe_eq hlen]

theorem HoldsAt.decodedFcs_eq (h : HoldsAt byte a f) (hlen : 14 ≤ f.length) :
    decodedFcs f = crc16 (readBytes byte a 14 ++ readBytes byte (a + 16) (f.length - 16)) := by
  rw [decodedFcs, h.take_eq hlen, h.drop_eq]

theorem HoldsAt.storedFcs_eq (h : HoldsAt byte a f) (hlen : 16 ≤ f.length) :
    storedFcs f = BitVec.ofNat 16 (beValue (readBytes byte (a + 14) 2)) := by
  rw [storedFcs, h.rdBe_eq hlen]

theorem HoldsAt.lengthMatches_eq (h : HoldsAt byte a f) {q : Nat} (hlen : q + 5 ≤ f.length) :
    lengthMatches f q = decide (beValue (readBytes byte (a + (q + 1)) 4) = f.length - (q + 5)) := by
  rw [lengthMatches, h.rdBe_eq (by omega), Bool.beq_eq_decide_eq]

end

/-! ## The outcomes of DECODE (R140, R143) -/

theorem wellFormedAt_regionA_eq_some_iff (s : State) (q : Nat) :
    wellFormedAt s.regionA = some q ↔
      42 ≤ q ∧ q + 5 ≤ s.aLen.toNat ∧ s.imemByte (s.aOff.toNat + q) = 0#8 ∧
        ∀ k, 42 ≤ k → k < q → s.imemByte (s.aOff.toNat + k) ≠ 0#8 := by
  rw [(holdsAt_regionA s).wellFormedAt_eq_some_iff, regionA_length]

theorem exec_decode_noError {s : State} {q : Nat} (hA : s.regionALegal = true)
    (hw : wellFormedAt s.regionA = some q) :
    exec .decode s = .next (complete .noError (writeDecoded s.regionA q { s with frameLen := s.aLen })) := by
  rw [exec, execDecode, if_pos hA, decodeFrame, hw]

theorem exec_decode_malformed {s : State} (hA : s.regionALegal = true) (hw : wellFormedAt s.regionA = none) :
    exec .decode s = .next (complete .malformed (writeMalformed { s with frameLen := s.aLen })) := by
  rw [exec, execDecode, if_pos hA, decodeFrame, hw, raiseError_eq]

/-- A DECODE that completes with ERR = 0 found the terminator of a well-formed frame. -/
theorem execDecode_noError {s t : State} (h : exec .decode s = .next t) (herr : t.status.err = .noError) :
    ∃ q, s.regionALegal = true ∧ wellFormedAt s.regionA = some q ∧
      t = complete .noError (writeDecoded s.regionA q { s with frameLen := s.aLen }) := by
  rcases execDecode_cases h with ⟨_, rfl⟩ | ⟨_, _, rfl⟩ | hok
  · cases herr
  · cases herr
  · exact hok

/-- The state that a DECODE with ERR = 0 leaves, field by field (R145 to R149). -/
theorem complete_writeDecoded (f : List Byte) (q : Nat) (s : State) :
    complete .noError (writeDecoded f q { s with frameLen := s.aLen }) = { s with
      hdr := parseHeader f q
      ckCalc := decodedChecksum f q
      ckStored := storedChecksum f
      fcsCalc := decodedFcs f
      fcsStored := storedFcs f
      frameLen := s.aLen
      ctOff := BitVec.ofNat 32 (s.aOff.toNat + 42)
      ctLen := BitVec.ofNat 32 (q - 42)
      plOff := BitVec.ofNat 32 (s.aOff.toNat + q + 5)
      plLen := BitVec.ofNat 32 (f.length - (q + 5))
      pend := none
      status := { s.status with
        busy := false
        done := true
        err := .noError
        ckOk := decodedChecksum f q == storedChecksum f
        fcsOk := decodedFcs f == storedFcs f
        lenOk := lengthMatches f q
        valid := decodedChecksum f q == storedChecksum f && decodedFcs f == storedFcs f && lengthMatches f q } } :=
  rfl

/-- DECODE leaves IMEM as it was (R149). -/
theorem imemByte_writeDecoded (code : ErrCode) (f : List Byte) (q : Nat) (s : State) :
    (complete code (writeDecoded f q { s with frameLen := s.aLen })).imemByte = s.imemByte := rfl

/-- Two first zeros from offset 42 on are the same (R142). -/
theorem first_zero_unique {byte : Nat → Byte} {p q : Nat} (hp : 42 ≤ p) (hq : 42 ≤ q) (hp0 : byte p = 0#8)
    (hq0 : byte q = 0#8) (hpmin : ∀ k, 42 ≤ k → k < p → byte k ≠ 0#8)
    (hqmin : ∀ k, 42 ≤ k → k < q → byte k ≠ 0#8) : p = q :=
  Nat.le_antisymm (Nat.le_of_not_lt fun h => hpmin q hq h hq0) (Nat.le_of_not_lt fun h => hqmin p hp h hp0)

/-! ## Where the registers point (R148, R149) -/

theorem imemBytes_le_of_wf {p : Params} (h : p.wf = true) : p.imemBytes ≤ 65536 := by
  simp only [Params.wf, Bool.and_eq_true, decide_eq_true_eq] at h
  obtain ⟨⟨_, hle⟩, _⟩ := h
  exact hle

theorem omemBytes_le_of_wf {p : Params} (h : p.wf = true) : p.omemBytes ≤ 65536 := by
  simp only [Params.wf, Bool.and_eq_true, decide_eq_true_eq] at h
  obtain ⟨_, _, hle⟩ := h
  exact hle

/-- The positions that DECODE reports lie inside IMEM, so no register truncates one. -/
theorem writeDecoded_positions {s t : State} {f : List Byte} {q : Nat} (hp : s.params.wf = true)
    (hA : s.regionALegal = true) (hf : f.length = s.aLen.toNat) (hq : q + 5 ≤ f.length)
    (ht : t = complete .noError (writeDecoded f q { s with frameLen := s.aLen })) :
    t.ctOff.toNat = s.aOff.toNat + 42 ∧ t.ctLen.toNat = q - 42 ∧ t.plOff.toNat = s.aOff.toNat + q + 5 ∧
      t.plLen.toNat = s.aLen.toNat - (q + 5) := by
  have hsize := imemBytes_le_of_wf hp
  have hregion := (regionALegal_iff s).mp hA
  subst ht
  simp only [complete_ctOff, complete_ctLen, complete_plOff, complete_plLen, writeDecoded_ctOff, writeDecoded_ctLen,
    writeDecoded_plOff, writeDecoded_plLen, BitVec.toNat_ofNat]
  refine ⟨?_, ?_, ?_, ?_⟩ <;> omega

/-! ## What the decoder reads from an encoded frame (R150) -/

section

variable (h : HeaderBank) (ct pl : List Byte)

/-- The first 0x00 from offset 42 on is the one that ends a contentType without any (R69, R142). -/
theorem wellFormedAt_encodeFrame (hct : 0#8 ∉ ct) :
    wellFormedAt (encodeFrame h ct pl) = some (42 + ct.length) := by
  have hf := holdsAt_byteAt (encodeFrame h ct pl)
  obtain ⟨_, _, hbody⟩ := holdsAt_encodeFrame.mp hf
  obtain ⟨_, _, _, happ, _⟩ := holdsAt_frameBody.mp hbody
  obtain ⟨hhold, hzero, _⟩ := holdsAt_app.mp happ
  rw [wellFormedAt_eq_some_iff, encodeFrame_length, frameLength]
  refine ⟨by omega, by omega, hzero, fun k hk hlt h0 => hct ?_⟩
  rw [HoldsAt] at hhold
  rw [← hhold, mem_readBytes_iff]
  exact ⟨k - 42, by omega, by rwa [Nat.add_sub_cancel' hk]⟩

/-- Every field but the reserved bits of the flags comes back (R65, R150). -/
theorem parseHeader_encodeFrame :
    parseHeader (encodeFrame h ct pl) (42 + ct.length) = { h with flags := h.flagsByte } := by
  have hf := holdsAt_byteAt (encodeFrame h ct pl)
  obtain ⟨hlink, _, hbody⟩ := holdsAt_encodeFrame.mp hf
  obtain ⟨hsmacHi, hsmacLo, hdmacHi, hdmacLo, hetype⟩ := holdsAt_link.mp hlink
  obtain ⟨hnet, htrans, _, happ, _⟩ := holdsAt_frameBody.mp hbody
  obtain ⟨hver, httl, hproto, hsip, hdip⟩ := holdsAt_net.mp hnet
  obtain ⟨hsport, hdport, hseq, hack, hflags⟩ := holdsAt_transFixed.mp htrans
  obtain ⟨_, _, happLen⟩ := holdsAt_app.mp happ
  have hlen : 42 + ct.length + 5 ≤ (encodeFrame h ct pl).length := by
    rw [encodeFrame_length, frameLength]
    omega
  rw [hf.parseHeader_eq (Nat.le_add_right ..) hlen rfl, show 42 + ct.length + 1 = 43 + ct.length by omega]
  simp only [Nat.zero_add, beValue_readBytes_one, hsmacHi.beValue_eq rfl, hsmacLo.beValue_eq rfl,
    hdmacHi.beValue_eq rfl, hdmacLo.beValue_eq rfl, hetype.beValue_eq rfl, hver, HeaderBank.versionByte_toNat, httl,
    hproto, hsip.beValue_eq rfl, hdip.beValue_eq rfl, hsport.beValue_eq rfl, hdport.beValue_eq rfl,
    hseq.beValue_eq rfl, hack.beValue_eq rfl, hflags, happLen.beValue_eq rfl, Nat.mul_div_cancel _ (Nat.succ_pos 15),
    BitVec.ofNat_toNat, BitVec.setWidth_eq]

/-- The decoder recomputes the checksum that ENCODE stored, since the stored flags byte is the masked one (R146). -/
theorem decodedChecksum_encodeFrame :
    decodedChecksum (encodeFrame h ct pl) (42 + ct.length) = storedChecksum (encodeFrame h ct pl) := by
  have hf := holdsAt_byteAt (encodeFrame h ct pl)
  obtain ⟨_, _, hbody⟩ := holdsAt_encodeFrame.mp hf
  obtain ⟨_, htrans, hck, _, hpl⟩ := holdsAt_frameBody.mp hbody
  have hlen : (encodeFrame h ct pl).length = 47 + ct.length + pl.length := encodeFrame_length h ct pl
  have hpayload : readBytes (byteAt (encodeFrame h ct pl)) (42 + ct.length + 5)
      ((encodeFrame h ct pl).length - (42 + ct.length + 5)) = pl := by
    rw [show 42 + ct.length + 5 = 47 + ct.length by omega]
    exact hpl.readBytes_eq (by omega)
  rw [hf.decodedChecksum_eq (by omega), hf.storedChecksum_eq (by omega), Nat.zero_add, Nat.zero_add, Nat.zero_add,
    htrans.readBytes_eq (HeaderBank.transFixed_length h), hpayload, hck.beValue_eq rfl, BitVec.ofNat_toNat,
    BitVec.setWidth_eq, frameChecksum, HeaderBank.pseudo]

/-- The decoder recomputes the FCS that ENCODE stored (R115, R125). -/
theorem decodedFcs_encodeFrame : decodedFcs (encodeFrame h ct pl) = storedFcs (encodeFrame h ct pl) := by
  have hf := holdsAt_byteAt (encodeFrame h ct pl)
  obtain ⟨hlink, hfcs, hbody⟩ := holdsAt_encodeFrame.mp hf
  have hlen : (encodeFrame h ct pl).length = 47 + ct.length + pl.length := encodeFrame_length h ct pl
  have hrest := hbody.readBytes_eq (n := (encodeFrame h ct pl).length - 16) (by rw [frameBody_length]; omega)
  rw [hf.decodedFcs_eq (by omega), hf.storedFcs_eq (by omega), Nat.zero_add, Nat.zero_add,
    hlink.readBytes_eq (HeaderBank.link_length h), hrest, hfcs.beValue_eq rfl, BitVec.ofNat_toNat,
    BitVec.setWidth_eq, frameFcs]

/-- The declared length is H_APPLEN, and the actual one that of the payload (R147). -/
theorem lengthMatches_encodeFrame :
    lengthMatches (encodeFrame h ct pl) (42 + ct.length) = decide (h.appLen.toNat = pl.length) := by
  have hf := holdsAt_byteAt (encodeFrame h ct pl)
  obtain ⟨_, _, hbody⟩ := holdsAt_encodeFrame.mp hf
  obtain ⟨_, _, _, happ, _⟩ := holdsAt_frameBody.mp hbody
  obtain ⟨_, _, happLen⟩ := holdsAt_app.mp happ
  have hlen : (encodeFrame h ct pl).length = 47 + ct.length + pl.length := encodeFrame_length h ct pl
  rw [hf.lengthMatches_eq (by omega), show 0 + (42 + ct.length + 1) = 43 + ct.length by omega,
    happLen.beValue_eq rfl, hlen, show 47 + ct.length + pl.length - (42 + ct.length + 5) = pl.length by omega]

variable {h ct pl}

/-- The two operands stand in a copy of the frame, wherever it is. -/
theorem holdsAt_operands {byte : Nat → Byte} {a : Nat} (hf : HoldsAt byte a (encodeFrame h ct pl)) :
    HoldsAt byte (a + 42) ct ∧ HoldsAt byte (a + (47 + ct.length)) pl := by
  obtain ⟨_, _, hbody⟩ := holdsAt_encodeFrame.mp ((holdsAt_shift (a := a) (i := 0)).mpr hf)
  obtain ⟨_, _, _, happ, hpl⟩ := holdsAt_frameBody.mp hbody
  obtain ⟨hct, _, _⟩ := holdsAt_app.mp happ
  exact ⟨holdsAt_shift.mp hct, holdsAt_shift.mp hpl⟩

/-- The checks of an encoded frame hold but for the declared length, which is the host's (R147, R150, R152). -/
theorem status_decode_encodeFrame (u : State) :
    (complete .noError (writeDecoded (encodeFrame h ct pl) (42 + ct.length) u)).status =
      (u.status.withValidity true true (decide (h.appLen.toNat = pl.length))).onComplete .noError := by
  rw [complete_status, writeDecoded_status, decodedChecksum_encodeFrame, decodedFcs_encodeFrame,
    lengthMatches_encodeFrame, beq_self_eq_true, beq_self_eq_true]

end

/-! ## DECODE of a copied frame (R150, R152) -/

/-- A frame that ENCODE wrote is no longer than OMEM. -/
theorem execEncode_noError_frameFits {s t : State} (h : exec .encode s = .next t) (herr : t.status.err = .noError) :
    FrameFits s := by
  rcases execEncode_cases h with ⟨_, rfl⟩ | ⟨_, _, _, rfl⟩ | ⟨_, _, _, _, rfl⟩ | ⟨_, _, _, hfit, _⟩
  · cases herr
  · cases herr
  · cases herr
  · exact hfit

/-- The copy of ENCODE's frame to region A is the frame. -/
theorem regionA_eq_encodeFrame {s t u : State} (h : exec .encode s = .next t) (herr : t.status.err = .noError)
    (hp : s.params.wf = true) (hlen : u.aLen = t.frameLen)
    (hcopy : ∀ k < t.frameLen.toNat, u.imemByte (u.aOff.toNat + k) = t.omemByte k) :
    u.regionA = encodeFrame s.hdr s.regionA s.regionB := by
  have hfit : frameLength s.aLen.toNat s.bLen.toNat ≤ s.params.omemBytes := execEncode_noError_frameFits h herr
  have hsize := omemBytes_le_of_wf hp
  obtain ⟨_, rfl⟩ := execEncode_noError h herr
  have hframeLen : u.aLen.toNat = (encodeFrame s.hdr s.regionA s.regionB).length := by
    rw [hlen, complete_frameLen, writeEncoded_frameLen, BitVec.toNat_ofNat, Nat.mod_eq_of_lt (by omega),
      encodeFrame_length, regionA_length, regionB_length]
  rw [← hlen, hframeLen] at hcopy
  calc u.regionA
      = readBytes u.imemByte u.aOff.toNat (encodeFrame s.hdr s.regionA s.regionB).length := by
        rw [← hframeLen]
        rfl
    _ = readBytes (complete .noError (writeEncoded s)).omemByte 0 (encodeFrame s.hdr s.regionA s.regionB).length :=
        readBytes_congr fun k hk => by rw [hcopy k hk, Nat.zero_add]
    _ = encodeFrame s.hdr s.regionA s.regionB := holdsAt_writeEncoded s .noError

/-- The copied frame decodes without error, its terminator after the contentType. -/
theorem exec_decode_encodeFrame {s t u : State} (h : exec .encode s = .next t) (herr : t.status.err = .noError)
    (hf : u.regionA = encodeFrame s.hdr s.regionA s.regionB)
    (hlegal : u.aOff.toNat + u.aLen.toNat ≤ u.params.imemBytes) :
    exec .decode u = .next (complete .noError (writeDecoded (encodeFrame s.hdr s.regionA s.regionB)
      (42 + s.regionA.length) { u with frameLen := u.aLen })) := by
  obtain ⟨hct, _⟩ := execEncode_noError h herr
  have hw : wellFormedAt u.regionA = some (42 + s.regionA.length) := by
    rw [hf, wellFormedAt_encodeFrame _ _ _ hct]
  rw [exec_decode_noError ((regionALegal_iff u).mpr hlegal) hw, hf]

/-! ## The statements -/

/-- Settles O43: the decoder reads every part of the encoded frame back, and the positions that it reports are those of
the two operands inside the copy. -/
theorem encodeThenDecodeRoundTrips : Obligations.EncodeThenDecodeRoundTrips := by
  intro s t u h herr hp happLen hp' hlen hlegal hcopy
  have hf := regionA_eq_encodeFrame h herr hp hlen hcopy
  have hA : u.regionALegal = true := (regionALegal_iff u).mpr hlegal
  have hlength : (encodeFrame s.hdr s.regionA s.regionB).length = u.aLen.toNat := by rw [← hf, regionA_length]
  have hframe : u.aLen.toNat = 47 + s.aLen.toNat + s.bLen.toNat := by
    rw [← hlength, encodeFrame_length, regionA_length, regionB_length, frameLength]
  obtain ⟨hct, hpl⟩ := holdsAt_operands (hf ▸ holdsAt_regionA u)
  have hstatus := status_decode_encodeFrame (h := s.hdr) (ct := s.regionA) (pl := s.regionB)
    { u with frameLen := u.aLen }
  rw [regionB_length, decide_eq_true happLen] at hstatus
  have hdecode := exec_decode_encodeFrame h herr hf hlegal
  rw [regionA_length] at hdecode hstatus hpl
  obtain ⟨hctOff, hctLen, hplOff, hplLen⟩ :=
    writeDecoded_positions (q := 42 + s.aLen.toNat) hp' hA hlength (by omega) rfl
  refine ⟨_, hdecode, ?_⟩
  rw [hstatus, hctOff, hplOff, imemByte_writeDecoded]
  refine ⟨rfl, rfl, rfl, rfl, rfl, ?_, BitVec.eq_of_toNat_eq (by omega), fun k hk => hct.byte_eq hk,
    BitVec.eq_of_toNat_eq (by omega), fun k hk => ?_⟩
  · rw [complete_hdr, writeDecoded_hdr, ← regionA_length s, parseHeader_encodeFrame, HeaderBank.flagsByte]
  · rw [show u.aOff.toNat + (42 + s.aLen.toNat) + 5 = u.aOff.toNat + (47 + s.aLen.toNat) by omega]
    exact hpl.byte_eq hk

/-- Settles O40: the source of the frame is IMEM from A_OFF on. -/
theorem decodeCompletes : Obligations.DecodeCompletes := by
  rintro s q hlegal hq hlen hzero hmin rd ck fcs ckOk fcsOk lenOk hrd rfl rfl rfl rfl rfl
  have hf := holdsAt_regionA s
  have hl := regionA_length s
  have hck : storedChecksum s.regionA = BitVec.ofNat 16 (rd 40 2) := by
    rw [hf.storedChecksum_eq (by omega), hrd]
  have hfcs : storedFcs s.regionA = BitVec.ofNat 16 (rd 14 2) := by
    rw [hf.storedFcs_eq (by omega), hrd]
  have happLen : lengthMatches s.regionA q = decide (rd (q + 1) 4 = s.regionA.length - (q + 5)) := by
    rw [hf.lengthMatches_eq (by omega), hrd]
  have hlt : ∀ o, rd o 2 < 2 ^ 16 := fun o => hrd ▸ beValue_readBytes_two_lt ..
  rw [exec_decode_noError ((regionALegal_iff s).mpr hlegal)
    ((wellFormedAt_regionA_eq_some_iff s q).mpr ⟨hq, hlen, hzero, hmin⟩), complete_writeDecoded, hck, hfcs, happLen,
    half_beq_ofNat _ (hlt 40), half_beq_ofNat _ (hlt 14), hf.parseHeader_eq hq (by omega) hrd,
    hf.decodedChecksum_eq (by omega), hf.decodedFcs_eq (by omega), hl]

/-- Settles O41: in each of the four cases no terminator is followed by four bytes. -/
theorem decodeMalformed : Obligations.DecodeMalformed := by
  intro s hlegal hbad
  have hnone : wellFormedAt s.regionA = none := by
    refine Option.eq_none_iff_forall_ne_some.mpr fun q hw => ?_
    obtain ⟨hq, hlen, hzero, hmin⟩ := (wellFormedAt_regionA_eq_some_iff s q).mp hw
    rcases hbad with hshort | ⟨_, hshort⟩ | hno | ⟨p, hp, _, hp0, hpmin, htail⟩
    · omega
    · omega
    · exact hno q hq (by omega) hzero
    · have := first_zero_unique (byte := fun k => s.imemByte (s.aOff.toNat + k)) hp hq hp0 hzero hpmin hmin
      omega
  exact ⟨_, exec_decode_malformed ((regionALegal_iff s).mpr hlegal) hnone, fun hclear => hclear, rfl⟩

/-- Settles O42: the terminator that DECODE found is the first 0x00 of the frame from offset 42 on. -/
theorem decodeLocatesContentTypeAndPayload : Obligations.DecodeLocatesContentTypeAndPayload := by
  intro s t hp h herr
  obtain ⟨q, hA, hw, ht⟩ := execDecode_noError h herr
  obtain ⟨hq, hlen, hzero, hmin⟩ := (wellFormedAt_regionA_eq_some_iff s q).mp hw
  obtain ⟨hctOff, hctLen, hplOff, hplLen⟩ := writeDecoded_positions hp hA (regionA_length s) (by simpa using hlen) ht
  have hbyte : ∀ k, t.imemByte (t.ctOff.toNat + k) = s.imemByte (s.aOff.toNat + (42 + k)) := fun k => by
    rw [hctOff, Nat.add_assoc, ht, imemByte_writeDecoded]
  refine ⟨exec_imem h, hctOff, fun k hk => ?_, ?_, by omega, by omega⟩
  · rw [hbyte]
    exact hmin _ (by omega) (by omega)
  · rw [hbyte, hctLen, Nat.add_sub_cancel' hq, hzero]

/-- Settles O44: the encoded frame's own checks hold, and its declared length is not that of the payload. -/
theorem wrongDeclaredLengthIsInvalid : Obligations.WrongDeclaredLengthIsInvalid := by
  intro s t u h herr hp happLen _ hlen hlegal hcopy
  have hf := regionA_eq_encodeFrame h herr hp hlen hcopy
  refine ⟨_, exec_decode_encodeFrame h herr hf hlegal, ?_⟩
  rw [status_decode_encodeFrame, regionB_length, decide_eq_false happLen]
  exact ⟨rfl, rfl, rfl, rfl, rfl⟩

end Sys2Proof.Machine
end

section
/-! SUPPORT. The errors of the commands (60_exceptions.md): the condition under which a command raises each code, and
that it raises the code exactly then. Then the statement of that part. -/

namespace Sys2Proof.Machine

/-! ## When a command raises a code (R161, R163, R164) -/

/-- The condition under which a command raises a code, with those that come before it in the command's order passed
(R164). No command raises ILLEGAL_CMD (R162). -/
def Raises (s : State) (i : Instr) : ErrCode → Prop
  | .noError => False
  | .illegalCmd => False
  | .range => s.regionALegal = false ∨ i = .encode ∧ s.regionBLegal = false
  | .ctNul => i = .encode ∧ s.regionALegal = true ∧ s.regionBLegal = true ∧ 0#8 ∈ s.regionA
  | .overflow => i = .encode ∧ s.regionALegal = true ∧ s.regionBLegal = true ∧ 0#8 ∉ s.regionA ∧ ¬FrameFits s
  | .malformed => i = .decode ∧ s.regionALegal = true ∧ wellFormedAt s.regionA = none

theorem regionALegal_eq_false_iff (s : State) :
    s.regionALegal = false ↔ s.params.imemBytes < s.aOff.toNat + s.aLen.toNat := by
  rw [← Bool.not_eq_true, regionALegal_iff, Nat.not_le]

theorem regionBLegal_eq_false_iff (s : State) :
    s.regionBLegal = false ↔ s.params.imemBytes < s.bOff.toNat + s.bLen.toNat := by
  rw [← Bool.not_eq_true, regionBLegal_iff, Nat.not_le]

/-- A frame is malformed when no first 0x00 from offset 42 on has four bytes after it (R143). -/
theorem wellFormedAt_regionA_eq_none_iff (s : State) :
    wellFormedAt s.regionA = none ↔
      ¬∃ q, 42 ≤ q ∧ q + 5 ≤ s.aLen.toNat ∧ s.imemByte (s.aOff.toNat + q) = 0#8 ∧
        ∀ k, 42 ≤ k → k < q → s.imemByte (s.aOff.toNat + k) ≠ 0#8 := by
  simp only [Option.eq_none_iff_forall_ne_some, ne_eq, wellFormedAt_regionA_eq_some_iff, not_exists]

/-! ## A command reports what it raises (R160, R164) -/

/-- Every command checks region A first. -/
theorem exec_regionA_range {s : State} (i : Instr) (hA : s.regionALegal = false) :
    exec i s = .next (complete .range s) := by
  cases i with
  | cksum => exact exec_cksum_range (Bool.eq_false_iff.mp hA)
  | crc16 => exact exec_crc16_range (Bool.eq_false_iff.mp hA)
  | encode => exact exec_encode_range (.inl hA)
  | decode => rw [exec, execDecode, if_neg (Bool.eq_false_iff.mp hA), raiseError_eq]

/-- A command whose condition for a code holds completes with that code. -/
theorem exec_of_raises {s : State} {i : Instr} {c : ErrCode} (hc : Raises s i c) :
    ∃ u, exec i s = .next u ∧ u.status.err = c := by
  cases c with
  | noError => exact hc.elim
  | illegalCmd => exact hc.elim
  | range =>
    rcases hc with hA | ⟨rfl, hB⟩
    · exact ⟨_, exec_regionA_range i hA, rfl⟩
    · exact ⟨_, exec_encode_range (.inr hB), rfl⟩
  | ctNul =>
    obtain ⟨rfl, hA, hB, hct⟩ := hc
    exact ⟨_, exec_encode_ctNul hA hB hct, rfl⟩
  | overflow =>
    obtain ⟨rfl, hA, hB, hct, hfit⟩ := hc
    exact ⟨_, exec_encode_overflow hA hB hct hfit, rfl⟩
  | malformed =>
    obtain ⟨rfl, hA, hw⟩ := hc
    exact ⟨_, exec_decode_malformed hA hw, rfl⟩

/-- A command that completes reports NONE, or a code whose condition holds. -/
theorem exec_err_cases {s t : State} {i : Instr} (h : exec i s = .next t) :
    t.status.err = .noError ∨ Raises s i t.status.err := by
  cases i with
  | cksum =>
    rcases execCksum_cases h with ⟨hA, rfl⟩ | ⟨_, rfl⟩
    · exact .inr (.inl hA)
    · exact .inl rfl
  | crc16 =>
    rcases execCrc16_cases h with ⟨hA, rfl⟩ | ⟨_, rfl⟩
    · exact .inr (.inl hA)
    · exact .inl rfl
  | encode =>
    rcases execEncode_cases h with
      ⟨hA | hB, rfl⟩ | ⟨hA, hB, hct, rfl⟩ | ⟨hA, hB, hct, hfit, rfl⟩ | ⟨_, _, _, _, rfl⟩
    · exact .inr (.inl hA)
    · exact .inr (.inr ⟨rfl, hB⟩)
    · exact .inr ⟨rfl, hA, hB, hct⟩
    · exact .inr ⟨rfl, hA, hB, hct, hfit⟩
    · exact .inl rfl
  | decode =>
    rcases execDecode_cases h with ⟨hA, rfl⟩ | ⟨hA, hw, rfl⟩ | ⟨q, _, _, rfl⟩
    · exact .inr (.inl hA)
    · exact .inr ⟨rfl, hA, hw⟩
    · exact .inl rfl

/-- A command reports an error code exactly when it raises it, so no two conditions hold together. -/
theorem exec_err_eq_iff {s t : State} {i : Instr} (h : exec i s = .next t) {c : ErrCode} (hc : c ≠ .noError) :
    t.status.err = c ↔ Raises s i c := by
  constructor
  · rintro rfl
    exact (exec_err_cases h).resolve_left hc
  · intro hraises
    obtain ⟨u, hu, herr⟩ := exec_of_raises hraises
    obtain rfl := Host.Outcome.next.inj (h.symm.trans hu)
    exact herr

/-! ## The statement -/

/-- Settles O47: the core's turn on an ILLEGAL word only completes it, and each code's condition, said of the registers
and the bytes of IMEM, is the one under which a command raises it. -/
theorem errorCodeOfEveryCommand : Obligations.ErrorCodeOfEveryCommand := by
  refine ⟨fun s t hr hcore hp h => ?_, fun s t i h => ⟨?_, ?_, ?_, ?_, ?_⟩⟩
  · obtain rfl := Host.Outcome.next.inj (h.symm.trans (step_illegal hr hp hcore))
    exact ⟨rfl, rfl⟩
  · rw [exec_err_eq_iff h (by decide), Raises, regionALegal_eq_false_iff, regionBLegal_eq_false_iff]
  · rw [exec_err_eq_iff h (by decide), Raises, mem_regionA_iff]
  · rw [exec_err_eq_iff h (by decide), Raises, not_mem_regionA_iff, FrameFits, Nat.not_le, frameLength]
  · rw [exec_err_eq_iff h (by decide), Raises, wellFormedAt_regionA_eq_none_iff]
  · rw [ne_eq, exec_err_eq_iff h (by decide), Raises]
    exact not_false

end Sys2Proof.Machine
end

section
/-! SUPPORT. Reset, acceptance, completion and the busy rules (70_reset_and_hazards.md): what every register shows after
a reset, the core's turn case by case, the opcode of a command word, and what each transaction does while a command is
pending. Then the statements of that part. -/

namespace Sys2Proof.Machine

/-! ## Reset (R180) -/

/-- The reset column of R12: MTU is the one register that is not 0. -/
theorem readReg_resetAll (level : Bool) (s : State) (r : Reg) :
    (resetAll level s).readReg r = if r = .mtu then 0x000005DC#32 else 0#32 := by
  cases r with
  | status => exact (by decide : Status.reset.word = 0#32)
  | _ => rfl

/-- The move of the reset input when it is an event (log 7). -/
theorem step_resetAll {s : State} {level : Bool} {rest : List Event} (hscript : s.script = .reset level :: rest)
    (hlevel : level = true ∨ s.inReset = true) :
    step s = .next (resetAll level { s with script := rest }) := by
  rw [step_reset hscript, applyReset, if_pos (by simpa using hlevel)]

/-! ## The core's turn (R186) -/

theorem coreStep_of_inReset {s : State} (h : s.inReset = true) : coreStep s = .next s := by
  simp [coreStep, h]

theorem coreStep_of_idle {s : State} (h : s.pend = none) : coreStep s = .next s := by
  simp [coreStep, h]

theorem coreStep_of_command {s : State} {i : Instr} (hr : s.inReset = false) (hp : s.pend = some (.command i)) :
    coreStep s = exec i s := by
  simp [coreStep, hr, hp]

/-! ## The opcode of a command word (R70, R71) -/

theorem opcodeOf_encode (i : Instr) : opcodeOf (encode i) = .command i := by
  rw [opcodeOf, (decodeCommand_eq_ok_iff _ i).mpr rfl]

/-- The four words of R70, and ILLEGAL for every other word. -/
theorem opcodeOf_eq_ite (w : Word) :
    opcodeOf w =
      if w = 1#32 then .command .cksum
      else if w = 2#32 then .command .crc16
      else if w = 3#32 then .command .encode
      else if w = 4#32 then .command .decode
      else .illegal := by
  split_ifs with h1 h2 h3 h4
  · rw [h1]; exact opcodeOf_encode .cksum
  · rw [h2]; exact opcodeOf_encode .crc16
  · rw [h3]; exact opcodeOf_encode .encode
  · rw [h4]; exact opcodeOf_encode .decode
  · refine (opcodeOf_eq_illegal_iff w).mpr fun i => ?_
    cases i with
    | cksum => exact h1
    | crc16 => exact h2
    | encode => exact h3
    | decode => exact h4

/-! ## The transactions that break the busy rules (R190 to R192) -/

/-- A READ of the register window breaks the busy rules as the register at its offset says (R192). -/
theorem breaksBusyRules_readOffset (p : Params) {o : Nat} (hlt : o < 0x100) (halign : o % 4 = 0) :
    Txn.breaksBusyRules p (.read (BitVec.ofNat 32 o) .word) = (regAt o).any Reg.readIsHazard := by
  simp [Txn.breaksBusyRules, target_registers hlt, registerAccessLegal, halign]

/-- A WRITE of the register window breaks the busy rules as the register at its offset says (R191). -/
theorem breaksBusyRules_writeOffset (p : Params) (w : Word) {o : Nat} (hlt : o < 0x100) (halign : o % 4 = 0) :
    Txn.breaksBusyRules p (.write (BitVec.ofNat 32 o) .word w) = (regAt o).any Reg.writeIsHazard := by
  simp [Txn.breaksBusyRules, target_registers hlt, registerAccessLegal, halign]

/-- The operand registers MTU to B_LEN may be read while a command is pending (R190). -/
theorem regAt_operand_readIsHazard :
    ∀ k < 8, 3 ≤ k → (regAt (4 * k)).any Reg.readIsHazard = false := by
  decide

/-- CMD, the operand and result registers and the header bank, by the words of the window (R191). -/
theorem regAt_writeIsHazard :
    ∀ k < 48, k = 1 ∨ 3 ≤ k ∧ k ≤ 17 ∨ 32 ≤ k → (regAt (4 * k)).any Reg.writeIsHazard = true := by
  decide

/-- No READ of the IMEM window breaks the busy rules (R190). -/
theorem breaksBusyRules_readImem (p : Params) {a : Word} (hlo : 0x10000 ≤ a.toNat) (hhi : a.toNat < 0x20000)
    (size : Size) : Txn.breaksBusyRules p (.read a size) = false := by
  obtain ⟨i, rfl, hi⟩ := exists_offset hlo
  simp only [Txn.breaksBusyRules, target_imem (i := i) (by omega)]

/-! ## Transactions that keep the busy rules (R190) -/

/-- The block with nothing pending. -/
def State.idle (s : State) : State :=
  { s with pend := none }

/-- What a transaction answered on the idle block does, with the pending command put back. -/
def withPendOf (s : State) (a : State × Response) : State × Response :=
  ({ a.1 with pend := s.pend }, a.2)

theorem withPendOf_idle (s : State) (v : Response) : withPendOf s (s.idle, v) = (s, v) := rfl

/-- No register shows PEND: CMD reads 0 (R14) and BUSY is a field of its own (log 8). -/
theorem readReg_idle (s : State) (r : Reg) : s.idle.readReg r = s.readReg r := by
  cases r <;> rfl

/-- CMD is the one register whose write action touches PEND. -/
theorem writeReg_idle {r : Reg} (h : r ≠ .cmd) (s : State) (w : Word) :
    s.writeReg w r = { s.idle.writeReg w r with pend := s.pend } := by
  cases r with
  | cmd => exact absurd rfl h
  | _ => rfl

/-- A READ that keeps the busy rules shows what it shows on the idle block: no register and no byte of IMEM depends on
PEND, and a legal access to OMEM would break the rules. -/
theorem hostRead_of_keepsBusyRules {addr : Word} {size : Size} {s : State}
    (h : Txn.breaksBusyRules s.params (.read addr size) = false) :
    hostRead addr size s = withPendOf s (hostRead addr size s.idle) := by
  cases hl : (target addr).accessLegal s.params size with
  | false => rw [hostRead_of_not_legal hl, hostRead_of_not_legal (s := s.idle) hl, withPendOf_idle]
  | true =>
    unfold hostRead
    cases ht : target addr with
    | registers o =>
      simp only [ht, Target.accessLegal, Txn.breaksBusyRules, Bool.and_eq_false_iff] at hl h
      cases hreg : regAt o with
      | none => simp [hl, hreg, readRegister, withPendOf_idle]
      | some r =>
        have hr : r.readIsHazard = false := by simpa [hl, hreg] using h
        simp [hl, hreg, readRegister, hr, readReg_idle, withPendOf_idle]
    | imem i =>
      rw [ht, Target.accessLegal] at hl
      have hl' : bufferAccessLegal s.idle.params.imemBytes i size = true := hl
      simp only [hl, hl', if_true]
      rfl
    | omem i =>
      simp only [ht, Target.accessLegal, Txn.breaksBusyRules] at hl h
      exact absurd hl (by simp [h])
    | unmapped => rfl

/-- A WRITE that keeps the busy rules does what it does on the idle block: it reaches CTRL, STATUS or a reserved offset,
or it is refused. -/
theorem hostWrite_of_keepsBusyRules {addr : Word} {size : Size} {w : Word} {s : State}
    (h : Txn.breaksBusyRules s.params (.write addr size w) = false) :
    hostWrite addr size w s = withPendOf s (hostWrite addr size w s.idle) := by
  cases hl : (target addr).accessLegal s.params size with
  | false => rw [hostWrite_of_not_legal w hl, hostWrite_of_not_legal (s := s.idle) w hl, withPendOf_idle]
  | true =>
    cases ht : target addr with
    | registers o =>
      simp only [ht, Target.accessLegal, Txn.breaksBusyRules] at hl h
      cases hreg : regAt o with
      | none => simp [hostWrite, ht, hl, hreg, writeRegister, withPendOf_idle]
      | some r =>
        have hr : r.writeIsHazard = false := by simpa [hl, hreg] using h
        have hcmd : r ≠ .cmd := by rintro rfl; exact absurd hr (by decide)
        simp [hostWrite, ht, hl, hreg, writeRegister, hr, withPendOf, writeReg_idle hcmd s w]
    | imem i =>
      simp only [ht, Target.accessLegal, Txn.breaksBusyRules] at hl h
      exact absurd hl (by simp [h])
    | omem i => rw [hostWrite_of_omem ht, hostWrite_of_omem ht, withPendOf_idle]
    | unmapped => simp [ht, Target.accessLegal] at hl

/-- While reset is asserted every transaction is refused, idle or not (R180). -/
theorem hostAccess_idle_of_inReset {s : State} (h : s.inReset = true) (x : Txn) :
    hostAccess x s = withPendOf s (hostAccess x s.idle) := by
  rw [hostAccess_of_inReset h, hostAccess_of_inReset (s := s.idle) h, withPendOf_idle]

theorem hostAccess_of_keepsBusyRules {x : Txn} {s : State} (h : x.breaksBusyRules s.params = false) :
    hostAccess x s = withPendOf s (hostAccess x s.idle) := by
  cases hr : s.inReset with
  | true => exact hostAccess_idle_of_inReset hr x
  | false =>
    cases x with
    | read addr size =>
      rw [hostAccess_read hr, hostAccess_read (s := s.idle) hr, hostRead_of_keepsBusyRules h]
    | write addr size w =>
      rw [hostAccess_write hr, hostAccess_write (s := s.idle) hr, hostWrite_of_keepsBusyRules h]

/-! ## Transactions that break the busy rules (R191) -/

/-- A WRITE that breaks the busy rules is dropped while a command is pending; idle or not, it answers OKAY (R191). -/
theorem hostWrite_of_breaksBusyRules {addr : Word} {size : Size} {w : Word} {s : State}
    (h : Txn.breaksBusyRules s.params (.write addr size w) = true) :
    (hostWrite addr size w s).2 = okay 0#32 ∧ (s.pend ≠ none → (hostWrite addr size w s).1 = setHazard s) := by
  cases ht : target addr with
  | registers o =>
    simp only [Txn.breaksBusyRules, ht, Bool.and_eq_true, Option.any_eq_true] at h
    obtain ⟨hl, r, hreg, hr⟩ := h
    simp +contextual [hostWrite, ht, hl, writeRegister, hreg, hr, Option.isSome_iff_ne_none]
  | imem i =>
    simp only [Txn.breaksBusyRules, ht] at h
    simp +contextual [hostWrite, ht, h, writeImem, Option.isSome_iff_ne_none]
  | omem i => simp [Txn.breaksBusyRules, ht] at h
  | unmapped => simp [Txn.breaksBusyRules, ht] at h

/-- A READ that breaks the busy rules answers OKAY, idle or not (R192). -/
theorem hostRead_of_breaksBusyRules {addr : Word} {size : Size} {s : State}
    (h : Txn.breaksBusyRules s.params (.read addr size) = true) : ∃ v, (hostRead addr size s).2 = okay v := by
  cases ht : target addr with
  | registers o =>
    simp only [Txn.breaksBusyRules, ht, Bool.and_eq_true, Option.any_eq_true] at h
    obtain ⟨hl, r, hreg, -⟩ := h
    simp only [hostRead, ht, hl, readRegister, hreg, if_true]
    split <;> exact ⟨_, rfl⟩
  | imem i => simp [Txn.breaksBusyRules, ht] at h
  | omem i =>
    simp only [Txn.breaksBusyRules, ht] at h
    simp only [hostRead, ht, h, if_true]
    split <;> exact ⟨_, rfl⟩
  | unmapped => simp [Txn.breaksBusyRules, ht] at h

/-- A transaction that is refused when reset is not asserted breaks no busy rule (R190). -/
theorem keepsBusyRules_of_refused {x : Txn} {s : State} (hr : s.inReset = false)
    (h : (hostAccess x s).2.resp = .slverr) : x.breaksBusyRules s.params = false := by
  rw [← Bool.not_eq_true]
  intro hbreaks
  cases x with
  | read addr size =>
    obtain ⟨v, hv⟩ := hostRead_of_breaksBusyRules hbreaks
    simp [hostAccess_read hr, hv, okay] at h
  | write addr size w =>
    obtain ⟨hokay, -⟩ := hostWrite_of_breaksBusyRules hbreaks
    simp [hostAccess_write hr, hokay, okay] at h

/-- A dropped WRITE as one step (R191). -/
theorem step_dropped {s : State} {addr : Word} {size : Size} {w : Word} {rest : List Event} (hr : s.inReset = false)
    (hp : s.pend ≠ none) (hscript : s.script = .txn (.write addr size w) :: rest)
    (hbreaks : Txn.breaksBusyRules s.params (.write addr size w) = true) :
    step s = .next { s with
      script := rest
      port := some ⟨0#32, .okay⟩
      status := { s.status with haz := true } } := by
  obtain ⟨hokay, hdrop⟩ := hostWrite_of_breaksBusyRules (s := { s with script := rest }) hbreaks
  have haccess := hostAccess_write (s := { s with script := rest }) hr addr size w
  rw [step_txn hscript, hostTransaction, haccess, hdrop hp, hokay]
  rfl

/-! ## The statements -/

/-- Settles O2: a reset event of log 7 leaves the reset column and nothing pending, and while the input is asserted
every transaction is refused and the core's turn changes nothing. -/
theorem resetRestoresEveryRegister : Obligations.ResetRestoresEveryRegister := by
  refine fun s level rest => ⟨fun hs hlevel => ?_, fun x hr hs => ?_, fun hr hcore => ?_⟩
  · exact ⟨_, step_resetAll hs hlevel, readReg_resetAll level _, rfl, resetAll_irq level _, rfl⟩
  · exact step_refused hs (hostAccess_of_inReset (s := { s with script := rest }) hr x)
  · rw [step_core hcore]
    exact coreStep_of_inReset hr

/-- Settles O15: no transaction of the list breaks the busy rules, and one that keeps them does not depend on PEND. -/
theorem busyHarmlessAccessesAsWhenIdle : Obligations.BusyHarmlessAccessesAsWhenIdle := by
  intro s x _ hx
  rcases Bool.eq_false_or_eq_true s.inReset with hr | hr
  · exact hostAccess_idle_of_inReset hr x
  refine hostAccess_of_keepsBusyRules ?_
  rcases hx with ⟨w, rfl⟩ | rfl | ⟨w, rfl⟩ | rfl | rfl | ⟨o, ho, rfl | ⟨w, rfl⟩⟩ | ⟨o, halign, hlo, hhi, rfl⟩ |
    ⟨a, size, hlo, hhi, rfl⟩ | hrefused
  · exact breaksBusyRules_writeOffset s.params w (o := Reg.ctrl.offset) (by decide) (by decide)
  · exact breaksBusyRules_readOffset s.params (o := Reg.ctrl.offset) (by decide) (by decide)
  · exact breaksBusyRules_writeOffset s.params w (o := Reg.status.offset) (by decide) (by decide)
  · exact breaksBusyRules_readOffset s.params (o := Reg.status.offset) (by decide) (by decide)
  · exact breaksBusyRules_readOffset s.params (o := Reg.cmd.offset) (by decide) (by decide)
  · rw [breaksBusyRules_readOffset s.params (reserved_accessLegal ho).1 ho.1, regAt_reserved ho, Option.any_none]
  · rw [breaksBusyRules_writeOffset s.params w (reserved_accessLegal ho).1 ho.1, regAt_reserved ho, Option.any_none]
  · rw [breaksBusyRules_readOffset s.params (by omega) halign]
    obtain ⟨k, rfl⟩ := Nat.dvd_of_mod_eq_zero halign
    exact regAt_operand_readIsHazard k (by omega) (by omega)
  · exact breaksBusyRules_readImem s.params hlo hhi size
  · exact keepsBusyRules_of_refused (s := s.idle) hr hrefused

/-- Settles O16: every WRITE of the list breaks the busy rules, and such a write is dropped. -/
theorem busyWritesAreDropped : Obligations.BusyWritesAreDropped := by
  intro s a size w rest hr hp hx hs
  refine step_dropped hr hp hs ?_
  rcases hx with ⟨rfl, halign, hrange⟩ | ⟨hlo, hhi, hlegal⟩
  · rw [breaksBusyRules_writeOffset s.params w (by omega) halign]
    obtain ⟨k, rfl⟩ := Nat.dvd_of_mod_eq_zero halign
    exact regAt_writeIsHazard k (by omega) (by omega)
  · obtain ⟨i, rfl⟩ := Nat.exists_eq_add_of_le hlo
    rw [Nat.add_sub_cancel_left] at hlegal
    rw [Txn.breaksBusyRules, target_imem (by omega)]
    exact (bufferAccessLegal_iff ..).mpr hlegal

/-- Settles O20: the write action of CMD, with the opcode of the word read off R70's table. -/
theorem acceptanceOfACommandWord : Obligations.AcceptanceOfACommandWord := by
  intro s w rest hr hp hs
  refine ⟨_, step_accept hr hp hs, acceptCommand_irq w s, ?_⟩
  rw [← opcodeOf_eq_ite]
  rfl

/-- Settles O21: the core's turn case by case, and every meaning ends in a completion. -/
theorem completionStepRunsThePendingCommand : Obligations.CompletionStepRunsThePendingCommand := by
  refine ⟨fun s hr hcore => ⟨fun hp => ?_, fun i hp => ?_, fun hp => ?_⟩, fun i s => ?_⟩
  · rw [step_core hcore]
    exact coreStep_of_idle hp
  · rw [step_core hcore]
    exact coreStep_of_command hr hp
  · exact step_illegal hr hp hcore
  · obtain ⟨t, ht⟩ := exec_next i s
    obtain ⟨code, u, rfl, -⟩ := exec_completes ht
    exact ⟨_, ht, rfl, rfl, rfl⟩

end Sys2Proof.Machine
end

section
/-! SUPPORT. What a command leaves when it completes, said once for all four: the outcomes, each under the
condition that leads to it. -/

namespace Sys2Proof.Machine

/-- The outcomes of the four commands: `Completes s i t` when the completion step of `i` on `s` leaves `t` (R101, R111,
R120, R140). -/
inductive Completes (s : State) : Instr → State → Prop where
  | rangeA (i : Instr) (hA : s.regionALegal = false) : Completes s i (complete .range s)
  | rangeB (hB : s.regionBLegal = false) : Completes s .encode (complete .range s)
  | checksum (hA : s.regionALegal = true) :
      Completes s .cksum (complete .noError { s with result := inetChecksum s.regionA })
  | crc (hA : s.regionALegal = true) :
      Completes s .crc16 (complete .noError { s with result := crc16 s.regionA })
  | ctNul (hA : s.regionALegal = true) (hB : s.regionBLegal = true) (hct : 0#8 ∈ s.regionA) :
      Completes s .encode (complete .ctNul s)
  | overflow (hA : s.regionALegal = true) (hB : s.regionBLegal = true) (hct : 0#8 ∉ s.regionA) (hfit : ¬FrameFits s) :
      Completes s .encode (complete .overflow
        { s with frameLen := BitVec.ofNat 32 (frameLength s.aLen.toNat s.bLen.toNat) })
  | encoded (hA : s.regionALegal = true) (hB : s.regionBLegal = true) (hct : 0#8 ∉ s.regionA) (hfit : FrameFits s) :
      Completes s .encode (complete .noError (writeEncoded s))
  | malformed (hA : s.regionALegal = true) (hw : wellFormedAt s.regionA = none) :
      Completes s .decode (complete .malformed (writeMalformed { s with frameLen := s.aLen }))
  | decoded (q : Nat) (hA : s.regionALegal = true) (hw : wellFormedAt s.regionA = some q) :
      Completes s .decode (complete .noError (writeDecoded s.regionA q { s with frameLen := s.aLen }))

theorem completes_of_exec {s t : State} {i : Instr} (h : exec i s = .next t) : Completes s i t := by
  cases i with
  | cksum =>
    rcases execCksum_cases h with ⟨hA, rfl⟩ | ⟨hA, rfl⟩
    · exact .rangeA _ hA
    · exact .checksum hA
  | crc16 =>
    rcases execCrc16_cases h with ⟨hA, rfl⟩ | ⟨hA, rfl⟩
    · exact .rangeA _ hA
    · exact .crc hA
  | encode =>
    rcases execEncode_cases h with
      ⟨hA | hB, rfl⟩ | ⟨hA, hB, hct, rfl⟩ | ⟨hA, hB, hct, hfit, rfl⟩ | ⟨hA, hB, hct, hfit, rfl⟩
    · exact .rangeA _ hA
    · exact .rangeB hB
    · exact .ctNul hA hB hct
    · exact .overflow hA hB hct hfit
    · exact .encoded hA hB hct hfit
  | decode =>
    rcases execDecode_cases h with ⟨hA, rfl⟩ | ⟨hA, hw, rfl⟩ | ⟨q, hA, hw, rfl⟩
    · exact .rangeA _ hA
    · exact .malformed hA hw
    · exact .decoded q hA hw

theorem Completes.exec_eq {s t : State} {i : Instr} (h : Completes s i t) : exec i s = .next t := by
  cases h with
  | rangeA _ hA => exact exec_regionA_range i hA
  | rangeB hB => exact exec_encode_range (.inr hB)
  | checksum hA => exact exec_cksum_legal hA
  | crc hA => exact exec_crc16_legal hA
  | ctNul hA hB hct => exact exec_encode_ctNul hA hB hct
  | overflow hA hB hct hfit => exact exec_encode_overflow hA hB hct hfit
  | encoded hA hB hct hfit => exact exec_encode_noError hA hB hct hfit
  | malformed hA hw => exact exec_decode_malformed hA hw
  | decoded q hA hw => exact exec_decode_noError hA hw

end Sys2Proof.Machine
end

section
/-! SUPPORT. The invariant of the block (Safety): its clauses in groups that the moves of the agents keep one by one,
and what each move leaves of them. Then the statements of that part. -/

namespace Sys2Proof.Machine

/-! ## The clauses in groups -/

/-- The clauses about the sizes and the contents of the two buffers (R3, R31). -/
structure StorageOk (s : State) : Prop where
  params_wf : s.params.wf = true
  imem_wf : Memory.wf s.imem = true
  omem_wf : Memory.wf s.omem = true
  imem_within : Memory.within s.params.imemBytes s.imem = true
  omem_within : Memory.within s.params.omemBytes s.omem = true

/-- The clauses about the result flags that hold pending or not (R15, R20, R21, R147). -/
structure FlagsOk (s : State) : Prop where
  valid_eq : s.status.valid = (s.status.ckOk && s.status.fcsOk && s.status.lenOk)
  error_clear : s.status.err ≠ .noError → s.status.ResultsClear
  mtuOvf_excludes : s.status.mtuOvf = true →
    s.status.valid = false ∧ s.status.ckOk = false ∧ s.status.fcsOk = false ∧ s.status.lenOk = false
  ckOk_eq : s.status.ckOk = true → s.ckCalc = s.ckStored
  fcsOk_eq : s.status.fcsOk = true → s.fcsCalc = s.fcsStored

theorem Invariant.storageOk {s : State} (h : Invariant s) : StorageOk s where
  params_wf := h.params_wf
  imem_wf := h.imem_wf
  omem_wf := h.omem_wf
  imem_within := h.imem_within
  omem_within := h.omem_within

/-- Flags that are all 0 satisfy every clause about them. -/
theorem Status.ResultsClear.flagsOk {s : State} (h : s.status.ResultsClear) : FlagsOk s := by
  obtain ⟨hvalid, hck, hfcs, hlen, hovf⟩ := id h
  exact {
    valid_eq := by rw [hvalid, hck]; rfl
    error_clear := fun _ => h
    mtuOvf_excludes := fun _ => ⟨hvalid, hck, hfcs, hlen⟩
    ckOk_eq := by simp [hck]
    fcsOk_eq := by simp [hfcs] }

/-! ## Reset and the schedule (R180) -/

/-- Right after a reset event, and while the input stays asserted, nothing is pending or written. -/
theorem invariant_of_atReset {s : State} (hp : s.params.wf = true) (h : AtReset s) : Invariant s := by
  have hflags : FlagsOk s := Status.ResultsClear.flagsOk (by rw [h]; exact ⟨rfl, rfl, rfl, rfl, rfl⟩)
  have himem : s.imem = [] := by rw [h]; rfl
  have homem : s.omem = [] := by rw [h]; rfl
  have hpend : s.pend = none := by rw [h]; rfl
  have hbusy : s.status.busy = false := by rw [h]; rfl
  exact { hflags with
    params_wf := hp
    imem_wf := by rw [himem]; rfl
    omem_wf := by rw [homem]; rfl
    imem_within := by rw [himem]; rfl
    omem_within := by rw [homem]; rfl
    busy_iff := by rw [hbusy, hpend]; rfl
    pending_clear := by simp [hpend]
    reset_holds := fun _ => h }

theorem atReset_resetAll (level : Bool) (s : State) : AtReset (resetAll level s) := rfl

/-- The same state with another schedule and another response on the port. -/
def State.withSchedule (es : List Event) (p : Option Response) (s : State) : State :=
  { s with script := es, port := p }

theorem AtReset.withSchedule {s : State} (h : AtReset s) (es : List Event) (p : Option Response) :
    AtReset (s.withSchedule es p) :=
  congrArg (State.withSchedule es p) h

/-- No clause looks at the schedule or at the port. -/
theorem Invariant.withSchedule {s : State} (h : Invariant s) (es : List Event) (p : Option Response) :
    Invariant (s.withSchedule es p) :=
  { h with reset_holds := fun hr => (h.reset_holds hr).withSchedule es p }

theorem Invariant.with_script {s : State} (h : Invariant s) (es : List Event) : Invariant { s with script := es } :=
  h.withSchedule es s.port

theorem Invariant.with_port {s : State} (h : Invariant s) (p : Option Response) : Invariant { s with port := p } :=
  h.withSchedule s.script p

/-! ## The host's moves (R185, R190, R191) -/

theorem Invariant.setHazard {s : State} (h : Invariant s) (hr : s.inReset = false) : Invariant (setHazard s) :=
  { h with reset_holds := by simp [hr] }

theorem Invariant.hazardRead {s : State} (h : Invariant s) (hr : s.inReset = false) : Invariant (hazardRead s).1 :=
  { h with reset_holds := by simp [Machine.hazardRead, hr] }

theorem Invariant.acceptCommand {s : State} (h : Invariant s) (hr : s.inReset = false) (w : Word) :
    Invariant (acceptCommand w s) :=
  { h.storageOk, Status.ResultsClear.flagsOk (s := Machine.acceptCommand w s) ⟨rfl, rfl, rfl, rfl, rfl⟩ with
    busy_iff := rfl
    pending_clear := fun _ => ⟨rfl, rfl, rfl, rfl, rfl, rfl, rfl⟩
    reset_holds := by simp [hr] }

/-- A write of STATUS can only clear DONE and HAZ (R16). -/
theorem Invariant.writeStatus {s : State} (h : Invariant s) (hr : s.inReset = false) (w : Word) :
    Invariant (s.writeReg w .status) :=
  { h with
    pending_clear := fun hp => by
      obtain ⟨hdone, herr, hclear⟩ := h.pending_clear hp
      exact ⟨by simp [State.writeReg, hdone], herr, hclear⟩
    reset_holds := by simp [State.writeReg, hr] }

theorem Invariant.writeReg {s : State} (h : Invariant s) (hr : s.inReset = false) (w : Word) (r : Reg) :
    Invariant (s.writeReg w r) := by
  cases r with
  | cmd => exact h.acceptCommand hr w
  | status => exact h.writeStatus hr w
  | _ => exact { h with reset_holds := by simp [State.writeReg, hr] }

theorem Invariant.writeImem {s : State} (h : Invariant s) (hr : s.inReset = false) {i : Nat} {bs : List Byte}
    (hi : i + bs.length ≤ s.params.imemBytes) : Invariant { s with imem := Memory.setBytes s.imem i bs } :=
  { h with
    imem_wf := Memory.wf_setBytes bs h.imem_wf i
    imem_within := Memory.within_setBytes bs h.imem_within hi
    reset_holds := by simp [hr] }

theorem Invariant.hostAccess {s : State} (h : Invariant s) (x : Txn) : Invariant (hostAccess x s).1 := by
  rcases hostAccess_cases x s with heq | ⟨hr, _, _, heq | heq⟩ | ⟨hr, r, w, _, _, heq⟩ | ⟨hr, _, i, bs, hi, heq⟩
  · rwa [heq]
  · rw [heq]
    exact h.hazardRead hr
  · rw [heq]
    exact h.setHazard hr
  · rw [heq]
    exact h.writeReg hr w r
  · rw [heq]
    exact h.writeImem hr hi

/-! ## The core's moves (R186) -/

/-- A completion outside reset keeps the invariant when what was written before it keeps the buffers and the flags. -/
theorem invariant_complete {u : State} {c : ErrCode} (hstore : StorageOk u) (hflags : FlagsOk (complete c u))
    (hr : u.inReset = false) : Invariant (complete c u) :=
  { hstore, hflags with
    busy_iff := rfl
    pending_clear := nofun
    reset_holds := by simp [hr] }

/-- The frame fits OMEM, and the one flag that ENCODE writes is MTU_OVF (R126, R127). -/
theorem Invariant.complete_writeEncoded {s : State} (h : Invariant s) (hr : s.inReset = false)
    (hclear : s.status.ResultsClear) (hfit : FrameFits s) : Invariant (complete .noError (writeEncoded s)) := by
  obtain ⟨hvalid, hck, hfcs, hlen, -⟩ := hclear
  have hframe : 0 + (encodeFrame s.hdr s.regionA s.regionB).length ≤ s.params.omemBytes := by
    rw [encodeFrame_length, regionA_length, regionB_length, Nat.zero_add]
    exact hfit
  refine invariant_complete ?_ ?_ (by rw [writeEncoded_inReset, hr])
  · exact {
      params_wf := by rw [writeEncoded_params]; exact h.params_wf
      imem_wf := by rw [writeEncoded_imem]; exact h.imem_wf
      omem_wf := by rw [writeEncoded_omem]; exact Memory.wf_setBytes _ h.omem_wf 0
      imem_within := by rw [writeEncoded_params, writeEncoded_imem]; exact h.imem_within
      omem_within := by
        rw [writeEncoded_params, writeEncoded_omem]
        exact Memory.within_setBytes _ h.omem_within hframe }
  · exact {
      valid_eq := by simp [hvalid, hck]
      error_clear := fun herr => absurd rfl herr
      mtuOvf_excludes := fun _ => by simp [hvalid, hck, hfcs, hlen]
      ckOk_eq := by simp
      fcsOk_eq := by simp }

/-- DECODE leaves MTU_OVF as acceptance did and writes the flags as R147 says. -/
theorem Invariant.complete_writeDecoded {s : State} (h : Invariant s) (hr : s.inReset = false)
    (hclear : s.status.ResultsClear) (f : List Byte) (q : Nat) (n : Word) :
    Invariant (complete .noError (writeDecoded f q { s with frameLen := n })) := by
  obtain ⟨-, -, -, -, hovf⟩ := hclear
  refine invariant_complete { h.storageOk with } ?_ hr
  exact {
    valid_eq := rfl
    error_clear := fun herr => absurd rfl herr
    mtuOvf_excludes := by simp [hovf]
    ckOk_eq := by simp
    fcsOk_eq := by simp }

/-- The completion of a command keeps the invariant: only ENCODE and DECODE write flags, and all flags were clear. -/
theorem Invariant.exec {s t : State} {i : Instr} (h : Invariant s) (hr : s.inReset = false)
    (hclear : s.status.ResultsClear) (hexec : exec i s = .next t) : Invariant t := by
  cases completes_of_exec hexec with
  | encoded _ _ _ hfit => exact h.complete_writeEncoded hr hclear hfit
  | decoded q _ _ => exact h.complete_writeDecoded hr hclear _ q _
  | _ => exact invariant_complete { h.storageOk with } (Status.ResultsClear.flagsOk hclear) hr

theorem Invariant.coreStep {s t : State} (h : Invariant s) (hstep : coreStep s = .next t) : Invariant t := by
  rcases coreStep_cases hstep with ⟨_, rfl⟩ | ⟨hr, hp, rfl⟩ | ⟨i, hr, hp, hexec⟩
  · exact h
  · obtain ⟨-, -, hclear⟩ := h.pending_clear (by simp [hp])
    exact invariant_complete h.storageOk (Status.ResultsClear.flagsOk hclear) hr
  · obtain ⟨-, -, hclear⟩ := h.pending_clear (by simp [hp])
    exact h.exec hr hclear hexec

theorem Invariant.applyReset {s : State} (h : Invariant s) (level : Bool) : Invariant (applyReset level s) := by
  rcases applyReset_cases level s with ⟨_, heq⟩ | ⟨_, _, heq⟩
  · rw [heq]
    exact invariant_of_atReset h.params_wf (atReset_resetAll level s)
  · rwa [heq]

/-! ## The statements -/

/-- Settles O51: the state right after reset holds the reset column. -/
theorem invariantHoldsAtReset : Obligations.InvariantHoldsAtReset :=
  invariant_of_atReset (by decide) rfl

/-- Settles O52: whichever agent moves (R165), its move keeps every clause. -/
theorem everyStepKeepsTheInvariant : Obligations.EveryStepKeepsTheInvariant := by
  intro s t h hstep
  rcases step_cases hstep with ⟨_, hcore⟩ | ⟨x, rest, _, rfl⟩ | ⟨level, rest, _, rfl⟩
  · exact (h.with_script _).coreStep hcore
  · exact ((h.with_script rest).hostAccess x).with_port _
  · exact (h.with_script rest).applyReset level

end Sys2Proof.Machine
end

section
/-! SUPPORT. The register window (10_state.md): what every register shows right after reset, the fields of STATUS, what
a write leaves in its own register and in the others, and the access at each of the 34 offsets. Then the statements of
that part. -/

namespace Sys2Proof.Machine

/-! ## Offsets (R12) -/

theorem mem_all (r : Reg) : r ∈ Reg.all := by
  cases r <;> decide

/-- The word of the window at each aligned offset: every one outside the reserved runs holds a register. -/
theorem regAt_words :
    ∀ k < 64, regAt (4 * k) = none → 0x48 ≤ 4 * k ∧ 4 * k ≤ 0x7C ∨ 0xC0 ≤ 4 * k ∧ 4 * k ≤ 0xFC := by
  decide

theorem regAt_eq_none_iff {o : Nat} (hlt : o < 0x100) (halign : o % 4 = 0) :
    regAt o = none ↔ (0x48 ≤ o ∧ o ≤ 0x7C ∨ 0xC0 ≤ o ∧ o ≤ 0xFC) := by
  refine ⟨fun hnone => ?_, fun hrange => regAt_reserved ⟨halign, hrange⟩⟩
  obtain ⟨k, rfl⟩ := Nat.dvd_of_mod_eq_zero halign
  exact regAt_words k (by omega) hnone

theorem offset_aligned (r : Reg) : r.offset % 4 = 0 :=
  ((registerAccessLegal_iff ..).mp (offset_legal r).2).2

/-! ## The fields of STATUS (R15) -/

theorem getLsbD_append_ofBool_zero {n : Nat} (x : BitVec n) (b : Bool) : (x ++ BitVec.ofBool b).getLsbD 0 = b := by
  rw [BitVec.getLsbD_append, BitVec.getLsbD_ofBool]
  simp

theorem getLsbD_append_ofBool_succ {n : Nat} (x : BitVec n) (b : Bool) (i : Nat) :
    (x ++ BitVec.ofBool b).getLsbD (i + 1) = x.getLsbD i := by
  rw [BitVec.getLsbD_append]
  simp

/-- The eight flags are the low bits of the word, one appended below the other. -/
theorem Status.word_flags (t : Status) :
    t.word.getLsbD 0 = t.busy ∧ t.word.getLsbD 1 = t.done ∧ t.word.getLsbD 2 = t.valid ∧
      t.word.getLsbD 3 = t.ckOk ∧ t.word.getLsbD 4 = t.fcsOk ∧ t.word.getLsbD 5 = t.lenOk ∧
      t.word.getLsbD 6 = t.mtuOvf ∧ t.word.getLsbD 7 = t.haz := by
  simp only [Status.word, getLsbD_append_ofBool_zero, getLsbD_append_ofBool_succ, and_self]

/-- The field above the eight flags is ERR. -/
theorem Status.word_err (t : Status) : t.word.extractLsb' 8 4 = t.err.code := by
  refine BitVec.eq_of_getLsbD_eq fun i hi => ?_
  rw [BitVec.getLsbD_extractLsb', Nat.add_comm]
  simp only [Status.word, getLsbD_append_ofBool_succ]
  simp only [BitVec.getLsbD_append, hi, decide_true, Bool.true_and, if_true]

/-! ## The value a write leaves (R29) -/

/-- The registers a host write stores into (R13, R17, R18, R24). -/
def Reg.isStored (r : Reg) : Prop :=
  r ≠ .cmd ∧ r ≠ .status ∧ r.isResult = false

theorem setWidth_setWidth_word (w : Word) (k : Nat) :
    (w.setWidth k).setWidth 32 = BitVec.ofNat 32 (w.toNat % 2 ^ k) := by
  apply BitVec.eq_of_toNat_eq
  simp

/-- A register shows the low bits of what was written to it. -/
theorem readReg_writeReg_self {r : Reg} (h : r.isStored) (s : State) (w : Word) :
    (s.writeReg w r).readReg r = BitVec.ofNat 32 (w.toNat % 2 ^ r.width) := by
  obtain ⟨hcmd, hstatus, hresult⟩ := h
  rw [← setWidth_setWidth_word]
  cases r with
  | cmd => exact absurd rfl hcmd
  | status => exact absurd rfl hstatus
  | result | ckCalc | ckStored | fcsCalc | fcsStored | frameLen | ctOff | ctLen | plOff | plLen =>
    exact absurd hresult (by decide)
  | ctrl | mtu | hSmacLo | hDmacLo | hEtype | hVer | hTtl | hProto | hSport | hDport | hFlags => rfl
  | aOff | aLen | bOff | bLen | hSmacHi | hDmacHi | hSip | hDip | hSeq | hAck | hApplen =>
    simp [State.writeReg, State.readReg, Reg.width]

/-- Each register is a field of its own: a write shows in its register alone. -/
theorem readReg_writeReg_of_ne {r r' : Reg} (h : r.isStored) (hne : r' ≠ r) (s : State) (w : Word) :
    (s.writeReg w r).readReg r' = s.readReg r' := by
  obtain ⟨hcmd, hstatus, -⟩ := h
  cases r with
  | cmd => exact absurd rfl hcmd
  | status => exact absurd rfl hstatus
  | result | ckCalc | ckStored | fcsCalc | fcsStored | frameLen | ctOff | ctLen | plOff | plLen => rfl
  | _ => cases r' <;> trivial

/-- No stored register is a byte of a buffer or PEND. -/
theorem writeReg_keeps_storage {r : Reg} (h : r.isStored) (s : State) (w : Word) :
    (s.writeReg w r).imem = s.imem ∧ (s.writeReg w r).omem = s.omem ∧ (s.writeReg w r).pend = s.pend := by
  obtain ⟨hcmd, -, -⟩ := h
  cases r with
  | cmd => exact absurd rfl hcmd
  | _ => exact ⟨rfl, rfl, rfl⟩

/-- A register shows nothing of the schedule or of the port. -/
theorem readReg_withSchedule (s : State) (es : List Event) (p : Option Response) (r : Reg) :
    (s.withSchedule es p).readReg r = s.readReg r := by
  cases r <;> rfl

/-! ## The statements -/

/-- Settles O1: the reset column of R12, read off the state after reset. -/
theorem resetStateHoldsTheResetColumn : Obligations.ResetStateHoldsTheResetColumn :=
  ⟨readReg_resetAll false State.reset, rfl, rfl, rfl⟩

/-- Settles O3: a reset empties the list of written bytes of both buffers (log 2). -/
theorem resetForgetsTheBuffers : Obligations.ResetForgetsTheBuffers :=
  fun _ _ hs => ⟨_, step_resetAll hs (.inl rfl), rfl, fun _ => ⟨rfl, rfl⟩⟩

/-- Settles O4: the table of offsets, and every aligned offset outside the reserved runs holds a register. -/
theorem registerWindowOffsets : Obligations.RegisterWindowOffsets :=
  ⟨rfl, mem_all, fun r => ⟨regAt_offset r, offset_aligned r, (offset_legal r).1⟩, fun _ => regAt_eq_none_iff⟩

/-- Settles O5: the flags are the eight low bits of the word, and ERR stands above them. -/
theorem statusFieldPositions : Obligations.StatusFieldPositions := by
  refine ⟨⟨rfl, rfl, rfl, rfl, rfl, rfl⟩, fun t => ?_⟩
  obtain ⟨h0, h1, h2, h3, h4, h5, h6, h7⟩ := t.word_flags
  exact ⟨h0, h1, h2, h3, h4, h5, h6, h7, t.word_err, t.word_toNat_lt⟩

/-- Settles O8: the write is no hazard, its register takes the low bits, and every other field is left. -/
theorem registerWriteTruncates : Obligations.RegisterWriteTruncates := by
  intro s r w rest hr hp hcmd hstatus hresult hs
  have hstored : r.isStored := ⟨hcmd, hstatus, hresult⟩
  obtain ⟨himem, homem, hpend⟩ := writeReg_keeps_storage hstored s w
  refine ⟨(s.writeReg w r).withSchedule rest (some ⟨0#32, .okay⟩), step_writeReg hr hs (.inl hp), ?_, fun r' hne => ?_,
    himem, homem, hpend, rfl⟩
  · rw [readReg_withSchedule, readReg_writeReg_self hstored]
  · rw [readReg_withSchedule, readReg_writeReg_of_ne hstored hne]

/-- Settles O55: each offset is that of its register, and an idle read shows the register. -/
theorem hostReadShowsTheRegisterAtEachOffset : Obligations.HostReadShowsTheRegisterAtEachOffset := by
  rintro s rest shows hr hp rfl
  have h : ∀ r : Reg, s.script = .txn (.read (BitVec.ofNat 32 r.offset) .word) :: rest →
      step s = .next { s with script := rest, port := some ⟨s.readReg r, .okay⟩ } :=
    fun r hs => step_readReg hr hs (.inl hp)
  exact ⟨h .ctrl, h .cmd, h .status, h .mtu, h .aOff, h .aLen, h .bOff, h .bLen, h .result, h .ckCalc, h .ckStored,
    h .fcsCalc, h .fcsStored, h .frameLen, h .ctOff, h .ctLen, h .plOff, h .plLen, h .hSmacHi, h .hSmacLo, h .hDmacHi,
    h .hDmacLo, h .hEtype, h .hVer, h .hTtl, h .hProto, h .hSip, h .hDip, h .hSport, h .hDport, h .hSeq, h .hAck,
    h .hFlags, h .hApplen⟩

/-- Settles O56: each offset is that of its register, and an idle write performs the register's write action. -/
theorem hostWriteReachesTheRegisterAtEachOffset : Obligations.HostWriteReachesTheRegisterAtEachOffset := by
  rintro s w rest leaves hr hp rfl
  have h : ∀ r : Reg, s.script = .txn (.write (BitVec.ofNat 32 r.offset) .word w) :: rest →
      step s = .next { s.writeReg w r with script := rest, port := some ⟨0#32, .okay⟩ } :=
    fun r hs => step_writeReg hr hs (.inl hp)
  exact ⟨h .ctrl, h .mtu, h .aOff, h .aLen, h .bOff, h .bLen, h .result, h .ckCalc, h .ckStored, h .fcsCalc,
    h .fcsStored, h .frameLen, h .ctOff, h .ctLen, h .plOff, h .plLen, h .hSmacHi, h .hSmacLo, h .hDmacHi, h .hDmacLo,
    h .hEtype, h .hVer, h .hTtl, h .hProto, h .hSip, h .hDip, h .hSport, h .hDport, h .hSeq, h .hAck, h .hFlags,
    h .hApplen⟩

end Sys2Proof.Machine
end

section
/-! SUPPORT. Command words and the steps that accept and run them (30_encoding.md section 2): the illegal words by their
fields, and a word carried from its acceptance to its completion. Then the statements of that part. -/

namespace Sys2Proof.Machine

/-! ## Illegal words (R71) -/

theorem instrOfOp_eq_none_iff (op : BitVec 4) : instrOfOp op = none ↔ op = 0#4 ∨ 5 ≤ op.toNat := by
  revert op
  decide

/-- A word is a command when its upper bits are zero and its OP is one of R70's. -/
theorem opcodeOf_eq_illegal_iff_fields (w : Word) :
    opcodeOf w = .illegal ↔ upperField w ≠ 0#28 ∨ instrOfOp (opField w) = none := by
  unfold opcodeOf decodeCommand
  by_cases hupper : upperField w = 0#28
  · cases hop : instrOfOp (opField w) <;> simp [hupper]
  · simp [hupper]

/-- A word with no nonzero upper bit is its OP, so it is 0 when its OP is. -/
theorem opField_eq_zero_iff {w : Word} (hupper : upperField w = 0#28) : opField w = 0#4 ↔ w = 0#32 := by
  refine ⟨fun hop => commandWord_ext hupper hop, fun hw => ?_⟩
  rw [hw]
  rfl

/-! ## From acceptance to completion (R185, R186) -/

/-- The core's turn never stops the block (R187). -/
theorem coreStep_next (s : State) : ∃ t, coreStep s = .next t := by
  unfold coreStep
  split
  · exact ⟨_, rfl⟩
  · split
    · exact ⟨_, rfl⟩
    · exact ⟨_, rfl⟩
    · exact exec_next ..

theorem opcodeOf_of_decodeCommand {w : Word} {i : Instr} (h : decodeCommand w = .ok i) : opcodeOf w = .command i := by
  rw [opcodeOf, h]

/-- The core's turn on a pending command. -/
theorem step_command {s : State} {i : Instr} (hr : s.inReset = false) (hp : s.pend = some (.command i))
    (hcore : CoreMovesNext s) : step s = exec i { s with script := s.script.tail } := by
  rw [step_core hcore]
  exact coreStep_of_command hr hp

theorem coreMovesNext_coreFirst {s : State} {es : List Event} (h : s.script = coreFirst es) : CoreMovesNext s := by
  cases es with
  | nil => exact .inl h
  | cons e rest => exact .inr (by rw [h]; rfl)

theorem coreFirst_tail (es : List Event) : (coreFirst es).tail = es := by
  cases es <;> rfl

/-- The load of a command word leaves the word's command pending and the core to move (log 5). -/
theorem step_withFetchWord {s : State} {w : Word} {i : Instr} (h : decodeCommand w = .ok i) :
    step (s.withFetchWord 32 w.toNat) = exec i { s.withFetchWord 32 w.toNat with script := s.script } := by
  have hpend : (s.withFetchWord 32 w.toNat).pend = some (.command i) := by
    rw [State.withFetchWord, commandWordOfBits_toNat, ← opcodeOf_of_decodeCommand h]
    rfl
  have hscript : (s.withFetchWord 32 w.toNat).script = coreFirst s.script := rfl
  rw [step_command rfl hpend (coreMovesNext_coreFirst hscript), hscript, coreFirst_tail]

/-! ## The statements -/

/-- Settles O24: every move of every agent answers a next state, the core's because every meaning does. -/
theorem noStepStops : Obligations.NoStepStops := by
  intro s
  rcases script_cases s with hcore | ⟨x, rest, hs⟩ | ⟨level, rest, hs⟩
  · rw [step_core hcore]
    exact coreStep_next _
  · exact ⟨_, step_txn hs⟩
  · exact ⟨_, step_reset hs⟩

/-- Settles O26: the illegal words by their two fields, and the decoder as the inverse of the encoder. -/
theorem everyOtherCommandWordIsIllegal : Obligations.EveryOtherCommandWordIsIllegal := by
  refine fun w => ⟨?_, decodeCommand_eq_ok_iff w⟩
  change opcodeOf w = .illegal ↔ w = 0#32 ∨ 5 ≤ (opField w).toNat ∨ upperField w ≠ 0#28
  rw [opcodeOf_eq_illegal_iff_fields, instrOfOp_eq_none_iff]
  by_cases hupper : upperField w = 0#28
  · simp [hupper, opField_eq_zero_iff hupper]
  · simp [hupper]

/-- Settles O27: each of the four words is the encoding of its command. -/
theorem commandWordsOfTheTable : Obligations.CommandWordsOfTheTable :=
  have h := fun i => (decodeCommand_eq_ok_iff (encode i) i).mpr rfl
  ⟨h .cksum, h .crc16, h .encode, h .decode⟩

/-- Settles O22: acceptance leaves the word's command pending, and the core's turn runs it. -/
theorem stepRunsTheDecodedCommand : Obligations.StepRunsTheDecodedCommand := by
  refine fun s w i rest hw => ⟨fun hr hp hs => ?_, step_withFetchWord hw⟩
  have hpend : (acceptCommand w s).pend = some (.command i) := by
    rw [acceptCommand_pend, opcodeOf_of_decodeCommand hw]
  exact ⟨_, step_accept hr hp hs, hpend, step_command hr hpend (.inr rfl)⟩

end Sys2Proof.Machine
end

section
/-! SUPPORT. A pending command and the host (20_memory.md section 5, 70_reset_and_hazards.md sections 2 and 3): the
reads that are hazards, what sets HAZ, what a transaction can change while a command is pending, and the run to the command's
completion. Then the statements of that part. -/

namespace Sys2Proof.Machine

/-! ## Hazard reads (R192) -/

/-- The result registers and the header bank, by the words of the window. -/
theorem regAt_readIsHazard :
    ∀ k < 48, 8 ≤ k ∧ k ≤ 17 ∨ 32 ≤ k → (regAt (4 * k)).any Reg.readIsHazard = true := by
  decide

/-- A READ that breaks the busy rules while a command is pending is a hazard read. -/
theorem hostRead_eq_hazardRead {addr : Word} {size : Size} {s : State} (hp : s.pend ≠ none)
    (h : Txn.breaksBusyRules s.params (.read addr size) = true) : hostRead addr size s = hazardRead s := by
  have hsome : s.pend.isSome = true := Option.isSome_iff_ne_none.mpr hp
  cases ht : target addr with
  | registers o =>
    simp only [Txn.breaksBusyRules, ht, Bool.and_eq_true, Option.any_eq_true] at h
    obtain ⟨hl, r, hreg, hr⟩ := h
    simp [hostRead, ht, hl, readRegister, hreg, hr, hsome]
  | imem i => simp [Txn.breaksBusyRules, ht] at h
  | omem i =>
    simp only [Txn.breaksBusyRules, ht] at h
    simp [hostRead, ht, h, hsome]
  | unmapped => simp [Txn.breaksBusyRules, ht] at h

/-- A hazard read as one step. -/
theorem step_hazardRead {s : State} {addr : Word} {size : Size} {rest : List Event} (hr : s.inReset = false)
    (hp : s.pend ≠ none) (hscript : s.script = .txn (.read addr size) :: rest)
    (hbreaks : Txn.breaksBusyRules s.params (.read addr size) = true) :
    step s = .next { s with
      script := rest
      port := some ⟨Config.hazardRead s.draws, .okay⟩
      draws := s.draws + 1
      status := { s.status with haz := true } } := by
  have haccess := hostAccess_read (s := { s with script := rest }) hr addr size
  have hread : hostRead addr size { s with script := rest } = hazardRead { s with script := rest } :=
    hostRead_eq_hazardRead hp hbreaks
  rw [step_txn hscript, hostTransaction, haccess, hread]
  rfl

/-! ## What sets HAZ (R34, R193) -/

theorem exec_haz {i : Instr} {s t : State} (h : exec i s = .next t) : t.status.haz = s.status.haz := by
  cases completes_of_exec h with
  | encoded => rw [complete_status, writeEncoded_status, Status.onComplete_haz]
  | _ => rfl

theorem coreStep_haz {s t : State} (h : coreStep s = .next t) : t.status.haz = s.status.haz := by
  rcases coreStep_cases h with ⟨_, rfl⟩ | ⟨_, _, rfl⟩ | ⟨i, _, _, hexec⟩
  · rfl
  · rfl
  · exact exec_haz hexec

/-- A write action clears HAZ or leaves it (R16). -/
theorem writeReg_haz {s : State} (h : s.status.haz = false) (w : Word) (r : Reg) :
    (s.writeReg w r).status.haz = false := by
  cases r with
  | status => simp [State.writeReg, h]
  | _ => exact h

/-- A transaction that sets HAZ breaks the busy rules while a command is pending. -/
theorem hostAccess_sets_haz {x : Txn} {s : State} (hbefore : s.status.haz = false)
    (hafter : (hostAccess x s).1.status.haz = true) :
    s.pend ≠ none ∧ s.inReset = false ∧ x.breaksBusyRules s.params = true := by
  rcases hostAccess_cases x s with h | ⟨hr, hp, hbreaks, _⟩ | ⟨_, r, w, _, _, h⟩ | ⟨_, _, i, bs, _, h⟩
  · simp [h, hbefore] at hafter
  · exact ⟨Option.isSome_iff_ne_none.mp hp, hr, hbreaks⟩
  · simp [h, writeReg_haz hbefore] at hafter
  · simp [h, hbefore] at hafter

theorem applyReset_haz {s : State} (h : s.status.haz = false) (level : Bool) :
    (applyReset level s).status.haz = false := by
  rcases applyReset_cases level s with ⟨_, heq⟩ | ⟨_, _, heq⟩
  · rw [heq]
    rfl
  · rwa [heq]

/-! ## What a transaction can change while a command is pending (R54, R188) -/

/-- `s` with what a host transaction can change while a command is pending taken from `t`: CTRL, DONE, HAZ, and the
model's own port, schedule and draw counter. -/
def State.withHostFieldsOf (s t : State) : State :=
  { s with
    ctrl := t.ctrl
    status := { s.status with done := t.status.done, haz := t.status.haz }
    port := t.port
    script := t.script
    draws := t.draws }

/-- `t` differs from `s` in those fields alone. -/
def SameOperands (s t : State) : Prop :=
  t = s.withHostFieldsOf t

theorem SameOperands.refl (s : State) : SameOperands s s := rfl

theorem SameOperands.trans {s t u : State} (h : SameOperands s t) (h' : SameOperands t u) : SameOperands s u := by
  unfold SameOperands at h
  rw [h] at h'
  exact h'

theorem sameOperands_script (s : State) (es : List Event) : SameOperands s { s with script := es } := rfl

theorem sameOperands_port (s : State) (p : Option Response) : SameOperands s { s with port := p } := rfl

/-- CTRL and STATUS are the registers whose write is no hazard (R190). -/
theorem sameOperands_writeReg {r : Reg} (h : r.writeIsHazard = false) (s : State) (w : Word) :
    SameOperands s (s.writeReg w r) := by
  cases r with
  | ctrl | status => rfl
  | _ => exact absurd h (by decide)

theorem sameOperands_hostAccess {s : State} (hp : s.pend ≠ none) (x : Txn) :
    SameOperands s (hostAccess x s).1 := by
  rcases hostAccess_cases x s with h | ⟨_, _, _, h | h⟩ | ⟨_, r, w, _, hidle, h⟩ | ⟨_, hidle, _⟩
  · rw [h]
    exact .refl s
  · rw [h]
    rfl
  · rw [h]
    rfl
  · rw [h]
    exact sameOperands_writeReg (hidle.resolve_left hp) s w
  · exact absurd hidle hp

theorem sameOperands_hostTransaction {s : State} (hp : s.pend ≠ none) (x : Txn) (rest : List Event) :
    SameOperands s (hostTransaction x { s with script := rest }) := by
  have haccess : SameOperands s (hostAccess x { s with script := rest }).1 :=
    (sameOperands_script s rest).trans (sameOperands_hostAccess (s := { s with script := rest }) hp x)
  exact haccess.trans (sameOperands_port _ _)

theorem hostTransaction_script (x : Txn) (s : State) : (hostTransaction x s).script = s.script := by
  obtain ⟨-, -, -, hscript, -⟩ := hostAccess_keeps x s
  exact hscript

theorem SameOperands.pend_eq {s t : State} (h : SameOperands s t) : t.pend = s.pend := by
  unfold SameOperands at h
  rw [h]
  rfl

theorem SameOperands.inReset_eq {s t : State} (h : SameOperands s t) : t.inReset = s.inReset := by
  unfold SameOperands at h
  rw [h]
  rfl

/-! ## The completion on other CTRL, DONE and HAZ (R54) -/

/-- `w` with CTRL, HAZ, and the model's own port, schedule and draw counter taken from `t`. A completion writes DONE, so
of the fields above DONE is the one that does not get past it. -/
def State.withCompletionFieldsOf (w t : State) : State :=
  { w with
    ctrl := t.ctrl
    status := { w.status with haz := t.status.haz }
    port := t.port
    script := t.script
    draws := t.draws }

/-- `v` differs from `w` in those fields alone. -/
def SameResults (w v : State) : Prop :=
  v = w.withCompletionFieldsOf v

theorem sameResults_withCompletionFieldsOf (w t : State) : SameResults w (w.withCompletionFieldsOf t) := rfl

theorem complete_withHostFieldsOf (c : ErrCode) (s t : State) :
    complete c (s.withHostFieldsOf t) = (complete c s).withCompletionFieldsOf t := rfl

theorem writeEncoded_withHostFieldsOf (s t : State) :
    writeEncoded (s.withHostFieldsOf t) = (writeEncoded s).withHostFieldsOf t := by
  simp only [writeEncoded, State.memWriteOmem, State.withHostFieldsOf]
  rfl

/-- No command looks at CTRL, DONE, HAZ or the model's own fields: the same outcome is met, and it leaves the same. -/
theorem Completes.withHostFieldsOf {s w : State} {i : Instr} (h : Completes s i w) (t : State) :
    Completes (s.withHostFieldsOf t) i (w.withCompletionFieldsOf t) := by
  cases h with
  | rangeA _ hA => exact .rangeA (s := s.withHostFieldsOf t) i hA
  | rangeB hB => exact .rangeB (s := s.withHostFieldsOf t) hB
  | checksum hA => exact .checksum (s := s.withHostFieldsOf t) hA
  | crc hA => exact .crc (s := s.withHostFieldsOf t) hA
  | ctNul hA hB hct => exact .ctNul (s := s.withHostFieldsOf t) hA hB hct
  | overflow hA hB hct hfit => exact .overflow (s := s.withHostFieldsOf t) hA hB hct hfit
  | encoded hA hB hct hfit =>
    rw [← complete_withHostFieldsOf, ← writeEncoded_withHostFieldsOf]
    exact .encoded hA hB hct hfit
  | malformed hA hw => exact .malformed (s := s.withHostFieldsOf t) hA hw
  | decoded q hA hw => exact .decoded (s := s.withHostFieldsOf t) q hA hw

theorem SameOperands.exec {s t w : State} {i : Instr} (h : SameOperands s t) (hs : exec i s = .next w) :
    exec i t = .next (w.withCompletionFieldsOf t) := by
  have hexec := ((completes_of_exec hs).withHostFieldsOf t).exec_eq
  rwa [← (h : t = s.withHostFieldsOf t)] at hexec

theorem SameOperands.complete {s t : State} (h : SameOperands s t) (c : ErrCode) :
    complete c t = (complete c s).withCompletionFieldsOf t := by
  rw [← complete_withHostFieldsOf, ← (h : t = s.withHostFieldsOf t)]

/-! ## The run to the completion (R187, log 4) -/

theorem run_succ {s t u : State} {n : Nat} (h : step s = .next t) (hrun : Host.Core.run Sys2Proof.core n t = .next u) :
    Host.Core.run Sys2Proof.core (n + 1) s = .next u := by
  have hstep : Sys2Proof.core.step s = .next t := h
  simp only [Host.Core.run, hstep]
  exact hrun

/-- Without a reset in the schedule the core's turn comes within the schedule, before it only the host moves, and the
host leaves the operands of what is pending. -/
theorem run_to_core {s : State} {es : List Event} (hscript : s.script = es) (hp : s.pend ≠ none)
    (hreset : ∀ level, Event.reset level ∉ es) :
    ∃ n u, n ≤ es.length ∧ Host.Core.run Sys2Proof.core n s = .next u ∧ CoreMovesNext u ∧ SameOperands s u := by
  induction es generalizing s with
  | nil => exact ⟨0, s, le_rfl, rfl, .inl hscript, .refl s⟩
  | cons e rest ih =>
    cases e with
    | core => exact ⟨0, s, Nat.zero_le _, rfl, .inr (by rw [hscript]; rfl), .refl s⟩
    | reset level => exact absurd List.mem_cons_self (hreset level)
    | txn x =>
      have hsame := sameOperands_hostTransaction hp x rest
      have hrest : (hostTransaction x { s with script := rest }).script = rest := hostTransaction_script x _
      obtain ⟨n, u, hn, hrun, hcore, hu⟩ :=
        ih hrest (by rwa [hsame.pend_eq]) fun level hmem => hreset level (List.mem_cons_of_mem _ hmem)
      exact ⟨n + 1, u, Nat.succ_le_succ hn, run_succ (step_txn hscript) hrun, hcore, hsame.trans hu⟩

/-! ## The statements -/

/-- Settles O17: every READ of the list breaks the busy rules, and such a read is a hazard read. -/
theorem busyReadsAreUnspecified : Obligations.BusyReadsAreUnspecified := by
  intro s a size rest hr hp hx hs
  refine step_hazardRead hr hp hs ?_
  rcases hx with ⟨rfl, halign, hrange⟩ | ⟨hlo, hhi, hlegal⟩
  · rw [breaksBusyRules_readOffset s.params (by omega) halign]
    obtain ⟨k, rfl⟩ := Nat.dvd_of_mod_eq_zero halign
    exact regAt_readIsHazard k (by omega) (by omega)
  · obtain ⟨i, rfl⟩ := Nat.exists_eq_add_of_le hlo
    rw [Nat.add_sub_cancel_left] at hlegal
    rw [Txn.breaksBusyRules, target_omem (by omega)]
    exact (bufferAccessLegal_iff ..).mpr hlegal

/-- Settles O18: neither the core nor the reset input sets HAZ, and of the transactions only a hazard does. -/
theorem onlyHazardsSetHaz : Obligations.OnlyHazardsSetHaz := by
  intro s t h hbefore hafter
  rcases step_cases h with ⟨_, hcore⟩ | ⟨x, rest, hs, rfl⟩ | ⟨level, rest, _, rfl⟩
  · have hkeep : t.status.haz = s.status.haz := coreStep_haz (s := { s with script := s.script.tail }) hcore
    simp [hkeep, hbefore] at hafter
  · obtain ⟨hp, hr, hbreaks⟩ := hostAccess_sets_haz (s := { s with script := rest }) hbefore hafter
    exact ⟨hp, hr, x, rest, hs, hbreaks⟩
  · have hclear := applyReset_haz (s := { s with script := rest }) hbefore level
    simp [hclear] at hafter

/-- Settles O19: while a command is pending a transaction reaches a register only if its write is no hazard. -/
theorem pendingHostAccessLeavesOperands : Obligations.PendingHostAccessLeavesOperands := by
  intro s x rest hp hs
  have hsame := sameOperands_hostTransaction hp x rest
  rw [SameOperands, State.withHostFieldsOf, hostTransaction_script] at hsame
  exact ⟨_, step_txn hs, hsame⟩

/-- Settles O53: the run reaches the core's turn with the operands of acceptance, on which every command leaves what it
leaves at acceptance. -/
theorem pendingCommandCompletesOnItsAcceptanceOperands :
    Obligations.PendingCommandCompletesOnItsAcceptanceOperands := by
  intro s i hp hr hreset
  obtain ⟨n, u, hn, hrun, hcore, hsame⟩ := run_to_core rfl (by simp [hp]) hreset
  have hpend : u.pend = some (.command i) := by rw [hsame.pend_eq, hp]
  have hinReset : u.inReset = false := by rw [hsame.inReset_eq, hr]
  obtain ⟨w, hw⟩ := exec_next i s
  have htail : SameOperands s { u with script := u.script.tail } :=
    hsame.trans (sameOperands_script u _)
  have hstep := (step_command hinReset hpend hcore).trans (htail.exec hw)
  exact ⟨n, u, _, w, hn, hrun, hpend, hcore, hstep, hw, sameResults_withCompletionFieldsOf w _⟩

/-- Settles O54: the run reaches the core's turn with the ILLEGAL word pending, whose completion only completes. -/
theorem pendingIllegalWordCompletes : Obligations.PendingIllegalWordCompletes := by
  intro s hp hr hreset
  obtain ⟨n, u, hn, hrun, hcore, hsame⟩ := run_to_core rfl (by simp [hp]) hreset
  have hpend : u.pend = some .illegal := by rw [hsame.pend_eq, hp]
  have hinReset : u.inReset = false := by rw [hsame.inReset_eq, hr]
  have htail : SameOperands s { u with script := u.script.tail } :=
    hsame.trans (sameOperands_script u _)
  have hstep := step_illegal hinReset hpend hcore
  rw [htail.complete] at hstep
  exact ⟨n, u, _, hn, hrun, hpend, hcore, hstep, sameResults_withCompletionFieldsOf (complete .illegalCmd s) _⟩

end Sys2Proof.Machine
end

section
/-! SUPPORT. The frames of the commands (60_exceptions.md section 1, 92_eei_decisions.md D22): what each leaves
unchanged, and what the outcome and the results depend on (00_scope.md section 5). Then the statements of that part. -/

namespace Sys2Proof.Machine

/-! ## What a completion leaves unchanged (R160, D22) -/

/-- The operands and the model's own fields are no command's to write. -/
theorem exec_keeps_operands {i : Instr} {s t : State} (h : exec i s = .next t) :
    t.params = s.params ∧ t.ctrl = s.ctrl ∧ t.mtu = s.mtu ∧ t.aOff = s.aOff ∧ t.aLen = s.aLen ∧ t.bOff = s.bOff ∧
      t.bLen = s.bLen ∧ t.inReset = s.inReset ∧ t.script = s.script ∧ t.port = s.port ∧ t.epoch = s.epoch ∧
      t.draws = s.draws := by
  cases completes_of_exec h with
  | encoded => simp
  | _ => exact ⟨rfl, rfl, rfl, rfl, rfl, rfl, rfl, rfl, rfl, rfl, rfl, rfl⟩

theorem exec_imemByte {i : Instr} {s t : State} (h : exec i s = .next t) (x : Nat) : t.imemByte x = s.imemByte x := by
  obtain ⟨-, -, -, -, -, -, -, -, -, -, hepoch, -⟩ := exec_keeps_operands h
  rw [State.imemByte, State.imemByte, exec_imem h, hepoch]

/-- DECODE does not write RESULT (R140). -/
theorem exec_decode_result {s t : State} (h : exec .decode s = .next t) : t.result = s.result := by
  cases completes_of_exec h <;> rfl

/-- OMEM and MTU_OVF are ENCODE's alone. -/
theorem exec_keeps_omem {i : Instr} {s t : State} (hi : i ≠ .encode) (h : exec i s = .next t) :
    t.omem = s.omem ∧ (∀ x, t.omemByte x = s.omemByte x) ∧ t.status.mtuOvf = s.status.mtuOvf := by
  cases completes_of_exec h with
  | rangeB | ctNul | overflow | encoded => exact absurd rfl hi
  | _ => exact ⟨rfl, fun _ => rfl, rfl⟩

/-- ENCODE writes OMEM inside its frame alone (R47). -/
theorem exec_encode_omemByte_of_le {s t : State} (h : exec .encode s = .next t) {x : Nat}
    (hx : 47 + s.aLen.toNat + s.bLen.toNat ≤ x) : t.omemByte x = s.omemByte x := by
  cases completes_of_exec h with
  | encoded => exact omemByte_writeEncoded_of_le hx
  | _ => rfl

/-- The header bank, the positions and the four validity flags are DECODE's alone. -/
theorem exec_keeps_decoded {i : Instr} {s t : State} (hi : i ≠ .decode) (h : exec i s = .next t) :
    t.hdr = s.hdr ∧ t.ctOff = s.ctOff ∧ t.ctLen = s.ctLen ∧ t.plOff = s.plOff ∧ t.plLen = s.plLen ∧
      t.status.valid = s.status.valid ∧ t.status.ckOk = s.status.ckOk ∧ t.status.fcsOk = s.status.fcsOk ∧
      t.status.lenOk = s.status.lenOk := by
  cases completes_of_exec h with
  | malformed | decoded => exact absurd rfl hi
  | encoded => simp
  | _ => exact ⟨rfl, rfl, rfl, rfl, rfl, rfl, rfl, rfl, rfl⟩

/-- CKSUM and CRC16 write RESULT alone (R101, R111). -/
theorem exec_keeps_checks {i : Instr} {s t : State} (hi : i = .cksum ∨ i = .crc16) (h : exec i s = .next t) :
    t.ckCalc = s.ckCalc ∧ t.ckStored = s.ckStored ∧ t.fcsCalc = s.fcsCalc ∧ t.fcsStored = s.fcsStored ∧
      t.frameLen = s.frameLen := by
  rcases hi with rfl | rfl <;> cases completes_of_exec h <;> exact ⟨rfl, rfl, rfl, rfl, rfl⟩

/-! ## What the results depend on (R7) -/

theorem exec_cksum_result {s t : State} (h : exec .cksum s = .next t) (herr : t.status.err = .noError) :
    t.result = inetChecksum s.regionA := by
  cases completes_of_exec h with
  | rangeA => cases herr
  | checksum => rfl

theorem exec_crc16_result {s t : State} (h : exec .crc16 s = .next t) (herr : t.status.err = .noError) :
    t.result = crc16 s.regionA := by
  cases completes_of_exec h with
  | rangeA => cases herr
  | crc => rfl

/-- The two states agree on everything a command reads. -/
structure SameInputs (s s' : State) : Prop where
  params_eq : s.params = s'.params
  aOff_eq : s.aOff = s'.aOff
  aLen_eq : s.aLen = s'.aLen
  bOff_eq : s.bOff = s'.bOff
  bLen_eq : s.bLen = s'.bLen
  mtu_eq : s.mtu = s'.mtu
  hdr_eq : s.hdr = s'.hdr
  imemByte_eq : s.imemByte = s'.imemByte

namespace SameInputs

variable {s s' : State} (h : SameInputs s s')

include h

theorem regionALegal_eq : s.regionALegal = s'.regionALegal := by
  rw [State.regionALegal, h.params_eq, h.aOff_eq, h.aLen_eq, State.regionALegal]

theorem regionBLegal_eq : s.regionBLegal = s'.regionBLegal := by
  rw [State.regionBLegal, h.params_eq, h.bOff_eq, h.bLen_eq, State.regionBLegal]

theorem regionA_eq : s.regionA = s'.regionA := by
  rw [State.regionA, State.memReadImem, h.imemByte_eq, h.aOff_eq, h.aLen_eq, State.regionA, State.memReadImem]

theorem regionB_eq : s.regionB = s'.regionB := by
  rw [State.regionB, State.memReadImem, h.imemByte_eq, h.bOff_eq, h.bLen_eq, State.regionB, State.memReadImem]

theorem frameFits_iff : FrameFits s ↔ FrameFits s' := by
  rw [FrameFits, h.params_eq, h.aLen_eq, h.bLen_eq, FrameFits]

theorem raises_iff (i : Instr) (c : ErrCode) : Raises s i c ↔ Raises s' i c := by
  cases c with
  | noError | illegalCmd => exact Iff.rfl
  | range => rw [Raises, h.regionALegal_eq, h.regionBLegal_eq, Raises]
  | ctNul => rw [Raises, h.regionALegal_eq, h.regionBLegal_eq, h.regionA_eq, Raises]
  | overflow => rw [Raises, h.regionALegal_eq, h.regionBLegal_eq, h.regionA_eq, h.frameFits_iff, Raises]
  | malformed => rw [Raises, h.regionALegal_eq, h.regionA_eq, Raises]

/-- The same code is reported: every error code is, and NONE is what is left. -/
theorem err_eq {i : Instr} {t t' : State} (ht : exec i s = .next t) (ht' : exec i s' = .next t') :
    t.status.err = t'.status.err := by
  have hcode : ∀ c, c ≠ .noError → (t.status.err = c ↔ t'.status.err = c) := fun c hc => by
    rw [exec_err_eq_iff ht hc, exec_err_eq_iff ht' hc, h.raises_iff]
  by_cases hnone : t.status.err = .noError
  · by_contra hne
    exact hne ((hcode _ fun hnone' => hne (hnone.trans hnone'.symm)).mpr rfl)
  · exact ((hcode _ hnone).mp rfl).symm

/-- The one result of ENCODE that is no function of the header bank and the regions alone is MTU_OVF (R132). -/
theorem mtuOvf_eq {t t' : State} (ht : exec .encode s = .next t) (ht' : exec .encode s' = .next t')
    (herr : t.status.err = .noError) (herr' : t'.status.err = .noError) : t.status.mtuOvf = t'.status.mtuOvf := by
  obtain ⟨_, rfl⟩ := execEncode_noError ht herr
  obtain ⟨_, rfl⟩ := execEncode_noError ht' herr'
  simp [h.aLen_eq, h.bLen_eq, h.mtu_eq]

theorem decoded_eq {t t' : State} (ht : exec .decode s = .next t) (ht' : exec .decode s' = .next t')
    (herr : t.status.err = .noError) (herr' : t'.status.err = .noError) :
    (t.ckCalc = t'.ckCalc ∧ t.ckStored = t'.ckStored ∧ t.fcsCalc = t'.fcsCalc ∧ t.fcsStored = t'.fcsStored ∧
      t.frameLen = t'.frameLen) ∧
    t.hdr = t'.hdr ∧ t.ctOff = t'.ctOff ∧ t.ctLen = t'.ctLen ∧ t.plOff = t'.plOff ∧ t.plLen = t'.plLen ∧
      t.status.valid = t'.status.valid ∧ t.status.ckOk = t'.status.ckOk ∧ t.status.fcsOk = t'.status.fcsOk ∧
      t.status.lenOk = t'.status.lenOk := by
  obtain ⟨q, _, hw, rfl⟩ := execDecode_noError ht herr
  obtain ⟨q', _, hw', rfl⟩ := execDecode_noError ht' herr'
  obtain rfl : q = q' := by
    rw [h.regionA_eq, hw'] at hw
    exact (Option.some.inj hw).symm
  simp [h.regionA_eq, h.aOff_eq, h.aLen_eq]

end SameInputs

/-- FRAME_LEN is the length of the frame, cut to the register. -/
theorem frameLen_toNat_le {s t : State} (h : exec .encode s = .next t) (herr : t.status.err = .noError) :
    t.frameLen.toNat ≤ 47 + s.aLen.toNat + s.bLen.toNat := by
  obtain ⟨_, rfl⟩ := execEncode_noError h herr
  rw [complete_frameLen, writeEncoded_frameLen, BitVec.toNat_ofNat]
  exact Nat.mod_le _ _

/-! ## The statements -/

/-- Settles O48: every error but OVERFLOW and MALFORMED completes the state as it is. -/
theorem errorsWriteOnlyWhatTheRuleLists : Obligations.ErrorsWriteOnlyWhatTheRuleLists := by
  intro s t i h herr
  cases completes_of_exec h with
  | rangeA | rangeB | ctNul | overflow | malformed => exact ⟨rfl, rfl, rfl⟩
  | checksum | crc | encoded | decoded => exact absurd rfl herr

/-- Settles O49: the frame of each group of fields. -/
theorem commandsChangeOnlyWhatTheyName : Obligations.CommandsChangeOnlyWhatTheyName := by
  intro s t i h
  obtain ⟨hparams, hctrl, hmtu, haOff, haLen, hbOff, hbLen, hreset, hscript, hport, hepoch, hdraws⟩ :=
    exec_keeps_operands h
  refine ⟨⟨hparams, hctrl, hmtu, haOff, haLen, hbOff, hbLen, exec_imem h, hreset, hscript, hport, hepoch, hdraws,
    exec_haz h, exec_imemByte h⟩, ?_, fun hi => exec_keeps_omem hi h, ?_, fun hi => exec_keeps_decoded hi h,
    fun hi => exec_keeps_checks hi h⟩
  · rintro rfl
    exact exec_decode_result h
  · rintro rfl x hx
    exact exec_encode_omemByte_of_le h hx

/-- Settles O50: the same condition of R164 is met in both states, and each result is a function of the inputs. -/
theorem resultsDependOnOperandsAlone : Obligations.ResultsDependOnOperandsAlone := by
  intro s s' t t' i hparams haOff haLen hbOff hbLen hmtu hhdr himem h h'
  have hsame : SameInputs s s' := ⟨hparams, haOff, haLen, hbOff, hbLen, hmtu, hhdr, funext himem⟩
  refine ⟨hsame.err_eq h h', fun herr => ?_⟩
  have herr' : t'.status.err = .noError := by rw [← hsame.err_eq h h', herr]
  cases i with
  | cksum =>
    refine ⟨fun _ => ?_, nofun, nofun, nofun⟩
    rw [exec_cksum_result h herr, exec_cksum_result h' herr', hsame.regionA_eq]
  | crc16 =>
    refine ⟨fun _ => ?_, nofun, nofun, nofun⟩
    rw [exec_crc16_result h herr, exec_crc16_result h' herr', hsame.regionA_eq]
  | encode =>
    obtain ⟨hresult, hckCalc, hckStored, hfcsCalc, hfcsStored, hframeLen, homem⟩ :=
      encodeIsDeterministic.2 s s' t t' hhdr hsame.regionA_eq hsame.regionB_eq h h' herr herr'
    exact ⟨fun _ => hresult, fun _ => ⟨hckCalc, hckStored, hfcsCalc, hfcsStored, hframeLen⟩,
      fun _ => ⟨hsame.mtuOvf_eq h h' herr herr', fun x hx => homem x (hx.trans_le (frameLen_toNat_le h herr))⟩, nofun⟩
  | decode =>
    obtain ⟨hchecks, hfields⟩ := hsame.decoded_eq h h' herr herr'
    exact ⟨fun hne => absurd rfl hne, fun _ => hchecks, nofun, fun _ => hfields⟩

end Sys2Proof.Machine
end

section
/-! SUPPORT. A frame with one byte replaced (44_decode.md section 3): what the decoder reads from it beside what it
reads from the frame as it was. Then the statements of that part. -/

namespace Sys2Proof.Machine

/-! ## One byte replaced -/

theorem byteAt_set (f : List Byte) (b : Byte) {k x : Nat} (hk : k < f.length) :
    byteAt (f.set k b) x = if k = x then b else byteAt f x := by
  by_cases h : k = x
  · subst h
    simp [byteAt, hk]
  · simp [byteAt, h]

theorem slice_set_outside (f : List Byte) (b : Byte) {i j k : Nat} (h : k < i ∨ j ≤ k) :
    slice (f.set k b) i j = slice f i j := by
  rw [slice, slice, List.take_set]
  rcases h with h | h
  · rw [List.drop_set_of_lt h]
  · rw [List.set_eq_of_length_le ((List.length_take_le ..).trans h)]

theorem slice_set_inside (f : List Byte) (b : Byte) {i j k : Nat} (hi : i ≤ k) :
    slice (f.set k b) i j = (slice f i j).set (k - i) b := by
  rw [slice, slice, List.take_set, List.drop_set, if_neg (Nat.not_lt_of_le hi)]

/-- A replaced byte of a field that lies inside the frame changes the number read (R92). -/
theorem rdBe_set_ne {f : List Byte} {b : Byte} {i n k : Nat} (hi : i ≤ k) (hk : k < i + n) (hn : i + n ≤ f.length)
    (hb : b ≠ byteAt f k) : rdBe (f.set k b) i n ≠ rdBe f i n := by
  intro heq
  have hlen : (slice f i (i + n)).length = n := by rw [slice_length]; omega
  have hlen' : (slice (f.set k b) i (i + n)).length = n := by rw [slice_length, List.length_set]; omega
  have hslice : slice (f.set k b) i (i + n) = slice f i (i + n) := by
    rw [← beBytes_beValue hlen', ← beBytes_beValue hlen]
    exact congrArg (beBytes n) heq
  have hbyte := congrArg (byteAt · (k - i)) hslice
  have hin : i + (k - i) = k := Nat.add_sub_cancel' hi
  simp only [byteAt_slice _ (show i + (k - i) < i + n by omega), hin, byteAt_set f b (show k < f.length by omega),
    if_true] at hbyte
  exact hb hbyte

theorem rdBe_set_outside (f : List Byte) (b : Byte) {i n k : Nat} (h : k < i ∨ i + n ≤ k) :
    rdBe (f.set k b) i n = rdBe f i n := by
  rw [rdBe, slice_set_outside f b h, rdBe]

/-- A 16-bit field tells two different pairs of bytes apart. -/
theorem half_rdBe_set_ne {f : List Byte} {b : Byte} {i k : Nat} (hi : i ≤ k) (hk : k < i + 2) (hn : i + 2 ≤ f.length)
    (hb : b ≠ byteAt f k) : BitVec.ofNat 16 (rdBe (f.set k b) i 2) ≠ BitVec.ofNat 16 (rdBe f i 2) := by
  have hlt : ∀ g : List Byte, rdBe g i 2 < 2 ^ 16 := fun g => by
    refine (beValue_lt _).trans_le ((Nat.pow_le_pow_right (by decide) ?_).trans_eq (by decide : 256 ^ 2 = 2 ^ 16))
    rw [slice_length]
    omega
  intro heq
  have hnat := congrArg BitVec.toNat heq
  rw [BitVec.toNat_ofNat, BitVec.toNat_ofNat, Nat.mod_eq_of_lt (hlt _), Nat.mod_eq_of_lt (hlt _)] at hnat
  exact rdBe_set_ne hi hk hn hb hnat

/-! ## A check over a part of the frame (R104, R114) -/

/-- A change of one byte of the input changes the value. -/
def DetectsByteChange (check : List Byte → Half) : Prop :=
  ∀ (bs : List Byte) (k : Nat) (b : Byte), k < bs.length → b ≠ byteAt bs k → check (bs.set k b) ≠ check bs

theorem detectsByteChange_crc16 : DetectsByteChange crc16 :=
  fun _ _ _ hk hb => crcFrom_set_ne _ hk hb

theorem detectsByteChange_inetChecksum : DetectsByteChange inetChecksum :=
  fun _ _ _ hk hb => inetChecksum_set_ne hk hb

theorem byteAt_append_left {as : List Byte} {k : Nat} (bs : List Byte) (h : k < as.length) :
    byteAt (as ++ bs) k = byteAt as k := by
  simp [byteAt, List.getElem?_append_left h]

theorem byteAt_append_right (as bs : List Byte) (k : Nat) : byteAt (as ++ bs) (as.length + k) = byteAt bs k := by
  simp [byteAt, List.getElem?_append_right]

theorem byteAt_drop (f : List Byte) (i k : Nat) : byteAt (f.drop i) k = byteAt f (i + k) := by
  simp [byteAt]

section

variable {check : List Byte → Half} (hcheck : DetectsByteChange check) {b : Byte} {i j k : Nat} {f as bs : List Byte}

include hcheck

/-- A byte replaced in a slice of the frame, with other bytes after the slice. -/
theorem DetectsByteChange.slice_append (hi : i ≤ k) (hj : k < j) (hk : k < f.length) (hb : b ≠ byteAt f k) :
    check (slice (f.set k b) i j ++ bs) ≠ check (slice f i j ++ bs) := by
  have hin : k - i < (slice f i j).length := by rw [slice_length]; omega
  have hbyte : byteAt (slice f i j ++ bs) (k - i) = byteAt f k := by
    rw [byteAt_append_left bs hin, byteAt_slice f (by omega), Nat.add_sub_cancel' hi]
  rw [slice_set_inside f b hi, ← List.set_append_left _ _ hin]
  exact hcheck _ _ _ (by rw [List.length_append]; omega) (by rwa [hbyte])

/-- A byte replaced in the rest of the frame, with other bytes before it. -/
theorem DetectsByteChange.append_drop (hi : i ≤ k) (hk : k < f.length) (hb : b ≠ byteAt f k) :
    check (as ++ (f.set k b).drop i) ≠ check (as ++ f.drop i) := by
  have hbyte : byteAt (as ++ f.drop i) (as.length + (k - i)) = byteAt f k := by
    rw [byteAt_append_right, byteAt_drop, Nat.add_sub_cancel' hi]
  have hset : as ++ (f.set k b).drop i = (as ++ f.drop i).set (as.length + (k - i)) b := by
    rw [List.drop_set, if_neg (Nat.not_lt_of_le hi), List.set_append_right _ _ (Nat.le_add_right ..),
      Nat.add_sub_cancel_left]
  rw [hset]
  exact hcheck _ _ _ (by rw [List.length_append, List.length_drop]; omega) (by rwa [hbyte])

end

/-! ## The FCS (R115, R146) -/

theorem decodedFcs_eq_slice (f : List Byte) : decodedFcs f = crc16 (slice f 0 14 ++ f.drop 16) := rfl

/-- The FCS is computed over every byte but those of its slot. -/
theorem decodedFcs_set_ne {f : List Byte} {b : Byte} {k : Nat} (hk : k < f.length) (hslot : k < 14 ∨ 16 ≤ k)
    (hb : b ≠ byteAt f k) : decodedFcs (f.set k b) ≠ decodedFcs f := by
  rw [decodedFcs_eq_slice, decodedFcs_eq_slice]
  rcases hslot with hlo | hhi
  · rw [List.drop_set_of_lt (show k < 16 by omega)]
    exact detectsByteChange_crc16.slice_append (Nat.zero_le k) hlo hk hb
  · rw [slice_set_outside f b (show k < 0 ∨ 14 ≤ k by omega)]
    exact detectsByteChange_crc16.append_drop hhi hk hb

theorem decodedFcs_set_slot (f : List Byte) (b : Byte) {k : Nat} (hlo : 14 ≤ k) (hhi : k < 16) :
    decodedFcs (f.set k b) = decodedFcs f := by
  rw [decodedFcs_eq_slice, decodedFcs_eq_slice, slice_set_outside f b (.inr hlo), List.drop_set_of_lt hhi]

/-- A replaced byte changes the recomputed FCS or the stored one, and not both (R151). -/
theorem decodedFcs_ne_storedFcs_set {f : List Byte} {b : Byte} {k : Nat} (hlen : 16 ≤ f.length) (hk : k < f.length)
    (hb : b ≠ byteAt f k) (hmatch : decodedFcs f = storedFcs f) :
    decodedFcs (f.set k b) ≠ storedFcs (f.set k b) := by
  by_cases hslot : 14 ≤ k ∧ k < 16
  · obtain ⟨hlo, hhi⟩ := hslot
    rw [decodedFcs_set_slot f b hlo hhi, hmatch]
    exact (half_rdBe_set_ne hlo hhi hlen hb).symm
  · have hstored : storedFcs (f.set k b) = storedFcs f := by
      rw [storedFcs, rdBe_set_outside f b (by omega), storedFcs]
    rw [hstored, ← hmatch]
    exact decodedFcs_set_ne hk (by omega) hb

/-! ## The checksum (R146) -/

theorem HoldsAt.slice_eq {byte : Nat → Byte} {a : Nat} {f : List Byte} (h : HoldsAt byte a f) {i j : Nat}
    (hj : j ≤ f.length) : slice f i j = readBytes byte (a + i) (j - i) := by
  have hread := slice_readBytes byte a f.length i j
  rwa [h, Nat.min_eq_left hj] at hread

/-- The bytes under the checksum: 13 bytes of the transport header, a zero byte, and the payload. -/
theorem decodedChecksum_eq_slice {f : List Byte} (q : Nat) (hlen : 40 ≤ f.length) :
    decodedChecksum f q = inetChecksum (slice f 27 40 ++ ([0x00#8] ++ f.drop (q + 5))) := by
  have hf := holdsAt_byteAt f
  rw [decodedChecksum, hf.rebuiltPseudo_eq hlen, ← hf.slice_eq hlen, framePayload, List.append_assoc]

/-- The checksum is computed over the offsets 27 to 39 and the payload. -/
theorem decodedChecksum_set_ne {f : List Byte} {b : Byte} {k q : Nat} (hlen : 40 ≤ f.length) (hq : 40 ≤ q + 5)
    (hk : k < f.length) (hrange : 27 ≤ k ∧ k < 40 ∨ q + 5 ≤ k) (hb : b ≠ byteAt f k) :
    decodedChecksum (f.set k b) q ≠ decodedChecksum f q := by
  rw [decodedChecksum_eq_slice q hlen, decodedChecksum_eq_slice q (by rwa [List.length_set])]
  rcases hrange with ⟨hlo, hhi⟩ | hpayload
  · rw [List.drop_set_of_lt (show k < q + 5 by omega)]
    exact detectsByteChange_inetChecksum.slice_append hlo hhi hk hb
  · rw [slice_set_outside f b (show k < 27 ∨ 40 ≤ k by omega), ← List.append_assoc, ← List.append_assoc]
    exact detectsByteChange_inetChecksum.append_drop hpayload hk hb

theorem decodedChecksum_set_slot {f : List Byte} (b : Byte) {k q : Nat} (hlen : 42 ≤ f.length) (hlo : 40 ≤ k)
    (hhi : k < q + 5) : decodedChecksum (f.set k b) q = decodedChecksum f q := by
  have hlen40 : 40 ≤ f.length := by omega
  rw [decodedChecksum_eq_slice q hlen40, decodedChecksum_eq_slice q (by rwa [List.length_set]),
    slice_set_outside f b (.inr hlo), List.drop_set_of_lt hhi]

/-- A replaced byte of the checksummed offsets changes the recomputed checksum or the stored one, and not both
(R151). -/
theorem decodedChecksum_ne_storedChecksum_set {f : List Byte} {b : Byte} {k q : Nat} (hlen : 42 ≤ f.length)
    (hq : 42 ≤ q) (hk : k < f.length) (hrange : 27 ≤ k ∧ k < 42 ∨ q + 5 ≤ k) (hb : b ≠ byteAt f k)
    (hmatch : decodedChecksum f q = storedChecksum f) :
    decodedChecksum (f.set k b) q ≠ storedChecksum (f.set k b) := by
  by_cases hslot : 40 ≤ k ∧ k < 42
  · obtain ⟨hlo, hhi⟩ := hslot
    rw [decodedChecksum_set_slot b hlen hlo (by omega), hmatch]
    exact (half_rdBe_set_ne hlo hhi hlen hb).symm
  · have hstored : storedChecksum (f.set k b) = storedChecksum f := by
      rw [storedChecksum, rdBe_set_outside f b (by omega), storedChecksum]
    rw [hstored, ← hmatch]
    exact decodedChecksum_set_ne (by omega) (by omega) hk (by omega) hb

/-- A byte before the contentType or after the terminator's four bytes does not decide where the terminator is. -/
theorem wellFormedAt_set {f : List Byte} {q k : Nat} (b : Byte) (hk : k < f.length) (hw : wellFormedAt f = some q)
    (hrange : k < 42 ∨ q + 5 ≤ k) : wellFormedAt (f.set k b) = some q := by
  obtain ⟨hq, hlen, hzero, hmin⟩ := (wellFormedAt_eq_some_iff f q).mp hw
  refine (wellFormedAt_eq_some_iff _ q).mpr ⟨hq, by rwa [List.length_set], ?_, fun x hx hxq => ?_⟩
  · rwa [byteAt_set f b hk, if_neg (by omega)]
  · rw [byteAt_set f b hk, if_neg (by omega)]
    exact hmin x hx hxq

/-! ## The statements -/

/-- Settles O45: a flipped byte is a different byte, and the two FCS values of the flipped frame part. -/
theorem frameBitFlipBreaksFcs : Obligations.FrameBitFlipBreaksFcs := by
  intro s s' t t' k j hk hj hflip h herr hfcs h' herr'
  obtain ⟨q, _, hw, rfl⟩ := execDecode_noError h herr
  obtain ⟨q', _, _, rfl⟩ := execDecode_noError h' herr'
  obtain ⟨hq, hlen, _⟩ := (wellFormedAt_eq_some_iff s.regionA q).mp hw
  have hmatch : decodedFcs s.regionA = storedFcs s.regionA := eq_of_beq hfcs
  have hpart : decodedFcs s'.regionA ≠ storedFcs s'.regionA := by
    rw [hflip]
    exact decodedFcs_ne_storedFcs_set (by omega) (by rwa [regionA_length]) (flipped_byte_ne _ hj) hmatch
  simp [hpart]

/-- Settles O46: the flipped frame has its terminator where it was, and its two checksums part. -/
theorem checksummedBitFlipBreaksChecksum : Obligations.ChecksummedBitFlipBreaksChecksum := by
  intro s s' t t' k j hp hk hj hflip hA' h herr hck hrange h'
  obtain ⟨q, hA, hw, ht⟩ := execDecode_noError h herr
  obtain ⟨hq, hlen, _⟩ := (wellFormedAt_eq_some_iff s.regionA q).mp hw
  obtain ⟨_, _, hplOff, _⟩ := writeDecoded_positions hp hA (regionA_length s) hlen ht
  subst ht
  have hmatch : decodedChecksum s.regionA q = storedChecksum s.regionA := eq_of_beq hck
  have hkf : k < s.regionA.length := by rwa [regionA_length]
  have hrange' : 27 ≤ k ∧ k < 42 ∨ q + 5 ≤ k := by omega
  have hw' : wellFormedAt s'.regionA = some q := by
    rw [hflip]
    exact wellFormedAt_set _ hkf hw (by omega)
  have hpart : decodedChecksum s'.regionA q ≠ storedChecksum s'.regionA := by
    rw [hflip]
    exact decodedChecksum_ne_storedChecksum_set (by omega) hq hkf hrange' (flipped_byte_ne _ hj) hmatch
  obtain rfl := Host.Outcome.next.inj (h'.symm.trans (exec_decode_noError hA' hw'))
  simp [hpart]

end Sys2Proof.Machine
end
